-- ==== Sys2Proof/Word.lean ====
section
/-! DEFINITION. The machine word and the element widths of the unit (00_scope.md R9, R10, R12).

Every value of the unit is unsigned (R12). Register contents are bit vectors; the polynomials of the
arithmetic rules are the unsigned integers they stand for (R14), so they are natural numbers. -/

namespace Sys2Proof

/-- The machine word: 32 bits (R9). -/
abbrev Word := BitVec 32

/-- A field element, coordinate or scalar register at the capacity of the largest parameters, REGW = 1024 (R10).
A build implements the low `REGW` bits. -/
abbrev Elem := BitVec 1024

/-- The wide register at the capacity of the largest parameters, 2·REGW = 2048 (R34). -/
abbrev WideElem := BitVec 2048

end Sys2Proof
end

