-- ==== Sys2Proof/Config.lean ====
section
/-! DEFINITION. What a build of the unit fixes (00_scope.md R10), and the values the spec leaves open. -/

namespace Sys2Proof

/-- The multiple of 0x20000 at which the platform places the aperture. `BASE` is OPEN in the spec (R10, U12), so
no proof can see this number (assumption log 3). -/
opaque Config.baseIndex : Nat

/-- The data a host read is answered with where the spec says "any value" (R93, U2): one free value for each
number of the draw (assumption log 6). -/
opaque Config.freeWord : Nat → Word

/-- What the Brick table's RAM holds after the reset of the given number: one free value for each coordinate slot
(R60, U1; assumption log 5). -/
opaque Config.freeTable : Nat → Nat → Elem

/-- The synthesis-time parameters of 00_scope.md R10, with their bounds. `WORDS_MAX` and `REGW` are derived. -/
structure Params where
  /-- Largest field degree m the unit accepts. -/
  mmax : Nat
  /-- Largest Brick window size; the table has 2^WMAX entries. -/
  wmax : Nat
  /-- Number of field registers. -/
  nf : Nat
  /-- Number of point registers. -/
  np : Nat
  /-- Number of scalar registers. -/
  ns : Nat
  /-- BASE as a multiple of 0x20000, to which R10 aligns it. -/
  baseIndex : Nat
  /-- The bounds of R10. -/
  bounds : 2 ≤ mmax ∧ mmax ≤ 1024 ∧ 1 ≤ wmax ∧ wmax ≤ 8 ∧ 1 ≤ nf ∧ nf ≤ 16 ∧ 1 ≤ np ∧ np ≤ 8 ∧ 1 ≤ ns ∧ ns ≤ 16
  deriving DecidableEq, Repr

/-- The defaults of R10, with the platform's `BASE` left open. -/
def Params.default : Params where
  mmax := 571
  wmax := 8
  nf := 16
  np := 8
  ns := 4
  baseIndex := Config.baseIndex
  bounds := by decide

/-- WORDS_MAX = ceil(MMAX/32) (R10). -/
def Params.wordsMax (p : Params) : Nat := (p.mmax + 31) / 32

/-- REGW = 32·WORDS_MAX (R10). -/
def Params.regw (p : Params) : Nat := 32 * p.wordsMax

/-- The number of entries of the Brick table, 2^WMAX (R10, R39). -/
def Params.tableSize (p : Params) : Nat := 2 ^ p.wmax

/-- The size of the aperture in bytes (R80). -/
def Config.apertureSize : Nat := 0x20000

/-- BASE, the bus address of offset 0 (R10). -/
def Params.base (p : Params) : Nat := Config.apertureSize * p.baseIndex

end Sys2Proof
end

