-- ==== Sys2Proof/Syntax.lean ====
section
/-! DEFINITION. The commands of 30_encoding.md R113, one constructor per row of the opcode table. -/

namespace Sys2Proof

/-- A register index field RD, RA or RB: unsigned, 4 bits (R112). -/
abbrev RegIdx := BitVec 4

/-- A field register index (class F of R114). -/
abbrev FReg := RegIdx

/-- A point register index (class P of R114). -/
abbrev PReg := RegIdx

/-- A scalar register index (class S of R114). -/
abbrev SReg := RegIdx

/-- The commands, operands in RD, RA, RB, S order (R113, R114, R119). -/
inductive Instr where
  /-- R250: no operation. -/
  | nop
  /-- R252: validate the curve parameters. -/
  | cfgchk
  /-- R255: clear every register that holds session material. -/
  | zeroize
  /-- R141: field addition. -/
  | fadd (rd ra rb : FReg)
  /-- R142: field multiplication. -/
  | fmul (rd ra rb : FReg)
  /-- R143: field squaring. -/
  | fsqr (rd ra : FReg)
  /-- R144: field inversion. -/
  | finv (rd ra : FReg)
  /-- R146: polynomial product into WIDE. -/
  | fclmul (ra rb : FReg)
  /-- R147: reduction of WIDE. -/
  | fred (rd : FReg)
  /-- R171: on-curve test. -/
  | pchk (ra : PReg)
  /-- R176: point doubling. -/
  | pdbl (rd ra : PReg)
  /-- R181: point addition. -/
  | padd (rd ra rb : PReg)
  /-- R186: y from x and a selector bit. -/
  | solvey (rd ra : FReg) (sel : Bool)
  /-- R201: compress a point. -/
  | pcmp (rd : FReg) (ra : PReg)
  /-- R205: decompress a point. -/
  | pdec (rd : PReg) (ra : FReg) (sel : Bool)
  /-- R220: validate the Brick table. -/
  | bchk
  /-- R225: fixed-base scalar multiplication. -/
  | bmul (rd : PReg) (ra : SReg)
  /-- R240: general scalar multiplication. -/
  | smul (rd : PReg) (ra : SReg) (rb : PReg)
  deriving DecidableEq, Repr

end Sys2Proof
end

