-- ==== Sys2Proof/WellFormed.lean ====
section
/-! DEFINITION. Which commands a build of the unit has: every index a command uses is below the size of its
register file (30_encoding.md R116 (c), R114). -/

namespace Sys2Proof

/-- An F operand names an implemented field register: index < NF (R116 (c)). -/
def Params.fOk (p : Params) (i : FReg) : Bool := decide (i.toNat < p.nf)

/-- A P operand names an implemented point register: index < NP (R116 (c)). -/
def Params.pOk (p : Params) (i : PReg) : Bool := decide (i.toNat < p.np)

/-- An S operand names an implemented scalar register: index < NS (R116 (c)). -/
def Params.sOk (p : Params) (i : SReg) : Bool := decide (i.toNat < p.ns)

/-- The command names only implemented registers, each in the file R114 gives its field. -/
def Instr.wf (p : Params) : Instr → Bool
  | .nop => true
  | .cfgchk => true
  | .zeroize => true
  | .fadd rd ra rb => p.fOk rd && p.fOk ra && p.fOk rb
  | .fmul rd ra rb => p.fOk rd && p.fOk ra && p.fOk rb
  | .fsqr rd ra => p.fOk rd && p.fOk ra
  | .finv rd ra => p.fOk rd && p.fOk ra
  | .fclmul ra rb => p.fOk ra && p.fOk rb
  | .fred rd => p.fOk rd
  | .pchk ra => p.pOk ra
  | .pdbl rd ra => p.pOk rd && p.pOk ra
  | .padd rd ra rb => p.pOk rd && p.pOk ra && p.pOk rb
  | .solvey rd ra _ => p.fOk rd && p.fOk ra
  | .pcmp rd ra => p.fOk rd && p.pOk ra
  | .pdec rd ra _ => p.pOk rd && p.fOk ra
  | .bchk => true
  | .bmul rd ra => p.pOk rd && p.sOk ra
  | .smul rd ra rb => p.pOk rd && p.sOk ra && p.pOk rb

end Sys2Proof
end

