-- ==== Sys2Proof/Decode.lean ====
section
/-! DEFINITION. The command decoder and encoder (30_encoding.md R110 to R118), and the decoder on the opcode table's
numbering of bits. -/

namespace Sys2Proof

/-- Why a command word is illegal (R116 (a), (b), (c)). -/
inductive DecodeError where
  /-- (a) The OPC is not in R113. -/
  | unassignedOpcode
  /-- (b) A bit its format requires to be zero is 1. -/
  | reservedBits
  /-- (c) A used register field names an index past its file. -/
  | indexOutOfRange
  deriving DecidableEq, Repr

/-- OPC, bits 31:24 (R110). -/
def fieldOPC (w : Word) : BitVec 8 := w.extractLsb' 24 8

/-- RD, bits 23:20 (R110). -/
def fieldRD (w : Word) : RegIdx := w.extractLsb' 20 4

/-- RA, bits 19:16 (R110). -/
def fieldRA (w : Word) : RegIdx := w.extractLsb' 16 4

/-- RB, bits 15:12 (R110). -/
def fieldRB (w : Word) : RegIdx := w.extractLsb' 12 4

/-- S, bit 0 (R110). -/
def fieldS (w : Word) : Bool := w.getLsbD 0

/-- The seven formats of R111. -/
inductive Format where
  | N | R3 | R2 | R2S | RD1 | RA1 | RAB
  deriving DecidableEq, Repr

/-- The bits below OPC that a format requires to be zero (the third column of R111). -/
def Format.zeroMask : Format → Word
  | .N => 0x00FFFFFF#32
  | .R3 => 0x00000FFF#32
  | .R2 => 0x0000FFFF#32
  | .R2S => 0x0000FFFE#32
  | .RD1 => 0x000FFFFF#32
  | .RA1 => 0x00F0FFFF#32
  | .RAB => 0x00F00FFF#32

/-- The bits a decoder matches: OPC and the must-be-zero bits of the format (R115). -/
def Format.mask (f : Format) : Word := 0xFF000000#32 ||| f.zeroMask

/-- The format of each command (R113). -/
def Instr.format : Instr → Format
  | .nop => .N
  | .cfgchk => .N
  | .zeroize => .N
  | .fadd .. => .R3
  | .fmul .. => .R3
  | .fsqr .. => .R2
  | .finv .. => .R2
  | .fclmul .. => .RAB
  | .fred .. => .RD1
  | .pchk .. => .RA1
  | .pdbl .. => .R2
  | .padd .. => .R3
  | .solvey .. => .R2S
  | .pcmp .. => .R2
  | .pdec .. => .R2S
  | .bchk => .N
  | .bmul .. => .R2
  | .smul .. => .R3

/-- The opcode of each command (R113). -/
def Instr.opcode : Instr → BitVec 8
  | .nop => 0x00#8
  | .cfgchk => 0x01#8
  | .zeroize => 0x02#8
  | .fadd .. => 0x10#8
  | .fmul .. => 0x11#8
  | .fsqr .. => 0x12#8
  | .finv .. => 0x13#8
  | .fclmul .. => 0x14#8
  | .fred .. => 0x15#8
  | .pchk .. => 0x20#8
  | .pdbl .. => 0x21#8
  | .padd .. => 0x22#8
  | .solvey .. => 0x23#8
  | .pcmp .. => 0x30#8
  | .pdec .. => 0x31#8
  | .bchk => 0x40#8
  | .bmul .. => 0x41#8
  | .smul .. => 0x50#8

/-- The command the opcode names, with the fields of the word as its operands (R113, R114). -/
def decodeOpcode (w : Word) : Option Instr :=
  let d := fieldRD w
  let a := fieldRA w
  let b := fieldRB w
  let s := fieldS w
  match (fieldOPC w).toNat with
  | 0x00 => some .nop
  | 0x01 => some .cfgchk
  | 0x02 => some .zeroize
  | 0x10 => some (.fadd d a b)
  | 0x11 => some (.fmul d a b)
  | 0x12 => some (.fsqr d a)
  | 0x13 => some (.finv d a)
  | 0x14 => some (.fclmul a b)
  | 0x15 => some (.fred d)
  | 0x20 => some (.pchk a)
  | 0x21 => some (.pdbl d a)
  | 0x22 => some (.padd d a b)
  | 0x23 => some (.solvey d a s)
  | 0x30 => some (.pcmp d a)
  | 0x31 => some (.pdec d a s)
  | 0x40 => some .bchk
  | 0x41 => some (.bmul d a)
  | 0x50 => some (.smul d a b)
  | _ => none

/-- The decoder: a word is legal only if its opcode is assigned, the must-be-zero bits of its format are zero and
every index it uses is implemented (R115, R116). -/
def decode (p : Params) (w : Word) : Except DecodeError Instr :=
  match decodeOpcode w with
  | none => .error .unassignedOpcode
  | some i =>
    if w &&& i.format.zeroMask ≠ 0#32 then .error .reservedBits
    else if i.wf p then .ok i
    else .error .indexOutOfRange

/-- A command word from its fields (R110). -/
def assemble (opc : BitVec 8) (rd ra rb : RegIdx) (s : Bool) : Word :=
  opc ++ rd ++ ra ++ rb ++ 0#11 ++ BitVec.ofBool s

/-- The encoder: the word of a command, every unused field 0 (R110, R111, R113). -/
def encode (i : Instr) : Word :=
  match i with
  | .nop => assemble i.opcode 0 0 0 false
  | .cfgchk => assemble i.opcode 0 0 0 false
  | .zeroize => assemble i.opcode 0 0 0 false
  | .fadd rd ra rb => assemble i.opcode rd ra rb false
  | .fmul rd ra rb => assemble i.opcode rd ra rb false
  | .fsqr rd ra => assemble i.opcode rd ra 0 false
  | .finv rd ra => assemble i.opcode rd ra 0 false
  | .fclmul ra rb => assemble i.opcode 0 ra rb false
  | .fred rd => assemble i.opcode rd 0 0 false
  | .pchk ra => assemble i.opcode 0 ra 0 false
  | .pdbl rd ra => assemble i.opcode rd ra 0 false
  | .padd rd ra rb => assemble i.opcode rd ra rb false
  | .solvey rd ra s => assemble i.opcode rd ra 0 s
  | .pcmp rd ra => assemble i.opcode rd ra 0 false
  | .pdec rd ra s => assemble i.opcode rd ra 0 s
  | .bchk => assemble i.opcode 0 0 0 false
  | .bmul rd ra => assemble i.opcode rd ra 0 false
  | .smul rd ra rb => assemble i.opcode rd ra rb false

/-- The command word whose bits are `w`, of which the opcode table gives `nbits`; every bit above is 0. -/
def tableWord (nbits w : Nat) : Word := (BitVec.ofNat nbits w).setWidth 32

/-- The command the decoder reads from a word numbered as the opcode table numbers it, in the default build. A
command is exactly one word (R118). -/
def decodeTableWord (nbits w : Nat) : Option Instr := (decode .default (tableWord nbits w)).toOption

end Sys2Proof
end

