-- ==== Sys2Proof/Machine/Poly.lean ====
section
/-! DEFINITION. Polynomials over GF(2) as unsigned integers: v stands for the sum of v[i]·x^i (00_scope.md R11, R14). -/

namespace Sys2Proof.Machine

/-- The part of the carry-less product of `u` and `v` that the low `n` bits of `u` contribute. -/
def clmulLow (u v : Nat) : Nat → Nat
  | 0 => 0
  | n + 1 => (if u.testBit n then v <<< n else 0) ^^^ clmulLow u v n

/-- The carry-less product (R14). -/
def clmul (u v : Nat) : Nat := clmulLow u v (u.log2 + 1)

/-- The degree of a nonzero polynomial: the index of its highest set bit (R14). -/
def deg (v : Nat) : Nat := v.log2

/-- Clears the bits `d + n - 1` down to `d` of `w` by adding multiples of `f`, whose degree is `d`. -/
def polymodFrom (f d : Nat) : Nat → Nat → Nat
  | 0, w => w
  | n + 1, w => if w.testBit (d + n) then polymodFrom f d n (w ^^^ (f <<< n)) else polymodFrom f d n w

/-- The remainder of `w` modulo a nonzero `f` (R14), by long division (assumption log 12). -/
def polymod (w f : Nat) : Nat := polymodFrom f (deg f) (w.log2 + 1 - deg f) w

/-- Euclid's algorithm, of at most `n` divisions. -/
def polygcdFuel : Nat → Nat → Nat → Nat
  | 0, a, _ => a
  | n + 1, a, b => if b = 0 then a else polygcdFuel n b (polymod a b)

/-- The greatest common divisor of two polynomials. -/
def polygcd (a b : Nat) : Nat := polygcdFuel (b.log2 + 2) a b

/-- Extended Euclid, one cancellation of a leading term or one exchange a step: `t0` and `t1` are the multiples of the
inverted element that give `r0` and `r1` modulo the first modulus. It ends when `r1 = 0`, with `r0` the greatest
common divisor. -/
def invFuel : Nat → Nat → Nat → Nat → Nat → Nat
  | 0, _, t0, _, _ => t0
  | n + 1, r0, t0, r1, t1 =>
    if r1 = 0 then t0
    else if r0 = 0 ∨ r0.log2 < r1.log2 then invFuel n r1 t1 r0 t0
    else invFuel n (r0 ^^^ (r1 <<< (r0.log2 - r1.log2))) (t0 ^^^ (t1 <<< (r0.log2 - r1.log2))) r1 t1

/-- The inverse of `u` modulo `f`, for `u` prime to `f` (assumption log 9). -/
def polyinv (u f : Nat) : Nat := polymod (invFuel (4 * (f.log2 + u.log2 + 2)) f 0 u 1) f

/-- `u^(2^n)` modulo `f`: `n` squarings. -/
def sqrIter (f u : Nat) : Nat → Nat
  | 0 => u
  | n + 1 => sqrIter f (polymod (clmul u u) f) n

/-- The primes that divide `m`. -/
def primeDivisors (m : Nat) : List Nat :=
  (List.range (m + 1)).filter fun p =>
    decide (2 ≤ p) && decide (m % p = 0) && (List.range p).all fun q => decide (q < 2) || decide (p % q ≠ 0)

/-- Rabin's test on a polynomial `f` of degree `m ≥ 2`: x^(2^m) is x modulo f, and x^(2^(m/p)) - x is prime to f for
every prime p that divides m (46_control.md R252; assumption log 10). -/
def rabin (f m : Nat) : Bool :=
  decide (sqrIter f 2 m = 2) && (primeDivisors m).all fun p => decide (polygcd f (sqrIter f 2 (m / p) ^^^ 2) = 1)

/-- What R252 means by irreducible: `f` has no factor g over GF(2) with 0 < deg(g) < deg(f). -/
def NoProperFactor (f : Nat) : Prop := ∀ g h : Nat, clmul g h = f → ¬(0 < deg g ∧ deg g < deg f)

end Sys2Proof.Machine
end

