-- ==== Sys2Proof/Machine/State.lean ====
section
/-! DEFINITION. The state of the unit (10_state.md), its reset value (R60), and the reasons a step can stop. -/

namespace Sys2Proof.Machine

/-- The error kinds of a completion (60_exceptions.md R271). The codes 9 to 15 are never produced. -/
inductive ErrCode where
  /-- Code 0: success. -/
  | none
  /-- Code 1. -/
  | invalidCurveParameters
  /-- Code 2. -/
  | invalidTable
  /-- Code 3. -/
  | decompressionFailure
  /-- Code 4. -/
  | invalidPoint
  /-- Code 5. -/
  | scalarOutOfRange
  /-- Code 6. -/
  | divisionByZero
  /-- Code 7. -/
  | illegalCommand
  /-- Code 8. -/
  | nonCanonicalOperand
  deriving DecidableEq, Repr

/-- The implemented fields of STATUS (R42); the reserved bits hold nothing. -/
structure Status where
  busy : Bool
  done : Bool
  lost : Bool
  flag : Bool
  sel : Bool
  cfgv : Bool
  brkv : Bool
  err : ErrCode
  deriving DecidableEq, Repr

/-- The configuration registers (R45 to R50), without the table. -/
structure Cfg where
  m : BitVec 16
  ea : BitVec 16
  eb : BitVec 16
  ec : BitVec 16
  w : BitVec 4
  l : BitVec 16
  a : Elem
  b : Elem
  gx : Elem
  gy : Elem
  deriving DecidableEq, Repr

/-- A point register: the point at infinity if `inf`, else the affine pair (R35). -/
structure PointReg where
  inf : Bool
  x : Elem
  y : Elem
  deriving DecidableEq, Repr

/-- An entry of the Brick table (R39). -/
structure TableEntry where
  x : Elem
  y : Elem
  deriving DecidableEq, Repr

/-- What a host access does (00_scope.md R13). -/
inductive AccessKind where
  | read
  | write (v : Word)
  deriving DecidableEq, Repr

/-- One host bus access: its bus address, its width in bits and what it does (20_memory.md R80 to R82). -/
structure Access where
  addr : Nat
  width : Nat
  kind : AccessKind
  deriving DecidableEq, Repr

/-- An input from outside, or the turn of the engine (R30, R94, R310; assumption log 1). -/
inductive Event where
  /-- The host makes this access. -/
  | access (a : Access)
  /-- The engine takes its step before the host's next access, if a command is in flight. -/
  | engine
  /-- The platform asserts and releases the reset input. -/
  | reset
  deriving DecidableEq, Repr

/-- What the bus answered the last access with: the model's record of its output (assumption log 17). -/
inductive Answer where
  /-- No access since reset. -/
  | none
  /-- A write ended, without a bus error. -/
  | written
  /-- A read ended with this word. -/
  | data (v : Word)
  deriving DecidableEq, Repr

/-- The state of the unit. A register file has the capacity of the largest parameters; `params` says which slots
and bits a build implements (assumption log 2, 13). -/
structure State where
  /-- The synthesis-time parameters, which PARAM reports (R10, R44); no step changes them. -/
  params : Params
  /-- CTRL.IE (R51). -/
  ie : Bool
  /-- STATUS (R42). -/
  status : Status
  /-- CMD: the last accepted command word (R43). -/
  cmd : Word
  /-- CFG_M .. CFG_GY (R45 to R50). -/
  cfg : Cfg
  /-- F0 .. F15 (R32). -/
  fregs : Vector Elem 16
  /-- WIDE (R34). -/
  wide : WideElem
  /-- P0 .. P7 (R35). -/
  pregs : Vector PointReg 8
  /-- S0 .. S15 (R38). -/
  sregs : Vector Elem 16
  /-- T[0] .. T[255] (R39). -/
  table : Vector TableEntry 256
  /-- The model's own: how many free values have been drawn (assumption log 6). -/
  draw : Nat
  /-- The model's own: the inputs still to come, first one first (assumption log 1). -/
  inbox : List Event
  /-- The model's own: what the bus answered last (assumption log 17). -/
  answer : Answer
  deriving DecidableEq, Repr

/-- Why the machine stops with a fault. -/
inductive Fault where
  /-- Raised by a host access whose width is not 32 bits, whose offset is no multiple of 4 or is mapped to no
  implemented word (20_memory.md R82, R86; 60_exceptions.md R279). A fault of the host program, as the spec has it.
  Safe. -/
  | busError
  deriving DecidableEq, Repr

/-- Why the machine has no meaning for a step. -/
inductive Refusal where
  /-- Raised by an arm of `exec` whose instruction has no meaning yet. Safe. -/
  | notModelled (mnemonic : String)
  /-- Raised by a host access at a bus address outside the aperture: it is no access to this unit, and the spec says
  nothing of what the platform places there (R80, R284; assumption log 4). Safe. -/
  | outsideAperture
  deriving DecidableEq, Repr

/-- STATUS after reset (R60). -/
def Status.reset : Status where
  busy := false
  done := false
  lost := false
  flag := false
  sel := false
  cfgv := false
  brkv := false
  err := .none

/-- The configuration registers after reset (R60). -/
def Cfg.reset : Cfg where
  m := 0
  ea := 0
  eb := 0
  ec := 0
  w := 0
  l := 0
  a := 0
  b := 0
  gx := 0
  gy := 0

/-- A point register that holds the point at infinity, as a command or reset writes it (R36, R60). -/
def PointReg.infinity : PointReg where
  inf := true
  x := 0
  y := 0

/-- The all-zero table entry, the sentinel for the point at infinity (R39). -/
def TableEntry.zero : TableEntry where
  x := 0
  y := 0

/-- The free contents of the implemented bits of one table coordinate after reset number `n` (R60, U1). -/
def tableCoordAtReset (p : Params) (n slot : Nat) : Elem :=
  Config.freeTable n slot &&& BitVec.ofNat 1024 (2 ^ p.regw - 1)

/-- The table after reset number `n`: unspecified in the implemented entries (R60, U1). -/
def tableAtReset (p : Params) (n : Nat) : Vector TableEntry 256 :=
  Vector.ofFn fun i =>
    if i.val < p.tableSize then ⟨tableCoordAtReset p n (2 * i.val), tableCoordAtReset p n (2 * i.val + 1)⟩
    else TableEntry.zero

/-- The state after reset number `n` of a build with parameters `p` (R60, R310), with no input pending. -/
def State.resetWith (p : Params) (n : Nat) : State where
  params := p
  ie := false
  status := Status.reset
  cmd := 0
  cfg := Cfg.reset
  fregs := Vector.replicate 16 0
  wide := 0
  pregs := Vector.replicate 8 PointReg.infinity
  sregs := Vector.replicate 16 0
  table := tableAtReset p n
  draw := n + 1
  inbox := []
  answer := .none

/-- The machine right after reset, in the default build (R10, R60). -/
def State.reset : State := State.resetWith Params.default 0

end Sys2Proof.Machine
end

