-- ==== Sys2Proof/Machine/FieldArith.lean ====
section
/-! DEFINITION. The field GF(2^m) the configuration names (41_field.md R140, R145, R148). Field values are the
natural numbers below 2^m. -/

namespace Sys2Proof.Machine

/-- m, the field degree (R45). -/
def Cfg.deg (c : Cfg) : Nat := c.m.toNat

/-- A, the curve coefficient (R49). -/
def Cfg.aVal (c : Cfg) : Nat := c.a.toNat

/-- B, the curve coefficient (R49). -/
def Cfg.bVal (c : Cfg) : Nat := c.b.toNat

/-- The reduction polynomial f (R140). -/
def redPoly (c : Cfg) : Nat :=
  if c.ec = 0 then 2 ^ c.deg ^^^ 2 ^ c.ea.toNat ^^^ 1
  else 2 ^ c.deg ^^^ 2 ^ c.ea.toNat ^^^ 2 ^ c.eb.toNat ^^^ 2 ^ c.ec.toNat ^^^ 1

/-- The predicate canon(v): v < 2^m (R14, R33). -/
def canon (c : Cfg) (v : Nat) : Bool := decide (v < 2 ^ c.deg)

/-- Field addition (R145). -/
def fadd (u v : Nat) : Nat := u ^^^ v

/-- Field multiplication (R145). -/
def fmul (c : Cfg) (u v : Nat) : Nat := polymod (clmul u v) (redPoly c)

/-- Field squaring (R145). -/
def fsqr (c : Cfg) (u : Nat) : Nat := fmul c u u

/-- Field inversion of a nonzero element (R145; the method is not architectural, assumption log 9). -/
def finv (c : Cfg) (u : Nat) : Nat := polyinv u (redPoly c)

/-- Field division by a nonzero element (R145). -/
def fdiv (c : Cfg) (u v : Nat) : Nat := fmul c u (finv c v)

/-- `n` squarings: u^(2^n). -/
def fsqrTimes (c : Cfg) (u n : Nat) : Nat := sqrIter (redPoly c) u n

/-- The square root, u^(2^(m-1)) (R145). -/
def fsqrt (c : Cfg) (u : Nat) : Nat := fsqrTimes c u (c.deg - 1)

/-- The sum of u, u^2, u^4, … of `n` terms. -/
def traceSum (c : Cfg) : Nat → Nat → Nat
  | 0, _ => 0
  | n + 1, u => u ^^^ traceSum c n (fsqr c u)

/-- The absolute trace (R145). -/
def ftr (c : Cfg) (u : Nat) : Nat := traceSum c c.deg u

/-- The shape of the reduction polynomial CFGCHK accepts: a trinomial or a pentanomial with falling exponents
(46_control.md R252). -/
def polyShapeOk (c : Cfg) : Bool :=
  (decide (c.ec = 0) && decide (c.eb = 0) && decide (1 ≤ c.ea.toNat) && decide (c.ea.toNat < c.deg)) ||
  (decide (c.ea.toNat < c.deg) && decide (c.eb.toNat < c.ea.toNat) && decide (c.ec.toNat < c.eb.toNat) &&
    decide (1 ≤ c.ec.toNat))

/-- One pass of the shift-and-xor reduction of R148: split at bit m, and replace hi·x^m by its congruent value. -/
def reducePass (c : Cfg) (w : Nat) : Nat :=
  let hi := w >>> c.deg
  let lo := w % 2 ^ c.deg
  let t := lo ^^^ hi ^^^ (hi <<< c.ea.toNat)
  if c.ec ≠ 0 then t ^^^ (hi <<< c.eb.toNat) ^^^ (hi <<< c.ec.toNat) else t

/-- At most `n` passes of the shift-and-xor reduction. -/
def reduceFuel (c : Cfg) : Nat → Nat → Nat
  | 0, w => w
  | n + 1, w => if 2 ^ c.deg ≤ w then reduceFuel c n (reducePass c w) else w

/-- The shift-and-xor reduction of R148, a second way to compute the remainder that the commands use. -/
def reduceShiftXor (c : Cfg) (w : Nat) : Nat := reduceFuel c (w.log2 + 1) w

end Sys2Proof.Machine
end

