-- ==== Sys2Proof/Machine/CurveArith.lean ====
section
/-! DEFINITION. The points of y² + xy = x³ + Ax² + B and the functions on them: 42_curve.md R170, R175, R180, R185,
43_codec.md R200, 44_brick.md R225, 45_scalar.md R240. -/

namespace Sys2Proof.Machine

/-- A point value: O, or an affine pair (00_scope.md R15). -/
inductive Pt where
  | O
  | aff (x y : Nat)
  deriving DecidableEq, Repr

/-- The curve equation at an affine pair (R170). -/
def curveEq (c : Cfg) (x y : Nat) : Bool :=
  decide (fsqr c y ^^^ fmul c x y = fmul c (fsqr c x) x ^^^ fmul c c.aVal (fsqr c x) ^^^ c.bVal)

/-- The on-curve test, false for O (R170). -/
def oncurve (c : Cfg) : Pt → Bool
  | .O => false
  | .aff x y => curveEq c x y

/-- Every coordinate the point has is canonical; O has none (R274 step 4). -/
def ptCanon (c : Cfg) : Pt → Bool
  | .O => true
  | .aff x y => canon c x && canon c y

/-- Point doubling (R175). -/
def ecdbl (c : Cfg) : Pt → Pt
  | .O => .O
  | .aff x y =>
    if x = 0 then .O
    else
      let lam := fadd x (fdiv c y x)
      let x' := fadd (fadd (fsqr c lam) lam) c.aVal
      let y' := fadd (fadd (fsqr c x) (fmul c lam x')) x'
      .aff x' y'

/-- The chord rule, for different x coordinates (R180). -/
def ecchord (c : Cfg) (x1 y1 x2 y2 : Nat) : Pt :=
  let lam := fdiv c (fadd y1 y2) (fadd x1 x2)
  let x3 := fadd (fadd (fadd (fadd (fsqr c lam) lam) x1) x2) c.aVal
  let y3 := fadd (fadd (fmul c lam (fadd x1 x3)) x3) y1
  .aff x3 y3

/-- Point addition, the cases in the order R180 tests them. -/
def ecadd (c : Cfg) : Pt → Pt → Pt
  | .O, q => q
  | .aff x1 y1, .O => .aff x1 y1
  | .aff x1 y1, .aff x2 y2 =>
    if x1 = x2 ∧ y1 = y2 then ecdbl c (.aff x1 y1)
    else if x1 = x2 then .O
    else ecchord c x1 y1 x2 y2

/-- The first of the elements x^i, i < m, whose trace is 1; it is 1 when m is odd. -/
def traceOne (c : Cfg) : Nat :=
  match (List.range c.deg).find? fun i => decide (ftr c (2 ^ i) = 1) with
  | some i => 2 ^ i
  | none => 0

/-- The loop that builds a root of z² + z = β from an element `d` of trace 1. -/
def quadLoop (c : Cfg) (d beta : Nat) : Nat → Nat → Nat → Nat
  | 0, z, _ => z
  | n + 1, z, w => quadLoop c d beta n (fsqr c z ^^^ fmul c (fsqr c w) beta) (fsqr c w ^^^ d)

/-- A root z of z² + z = β, where β has trace 0 (assumption log 11). -/
def quadRoot (c : Cfg) (beta : Nat) : Nat := quadLoop c (traceOne c) beta (c.deg - 1) 0 (traceOne c)

/-- The root z of z² + z = β with z[0] = s; the two roots differ in bit 0 (R185). -/
def quadRootSel (c : Cfg) (beta : Nat) (s : Bool) : Nat :=
  if (quadRoot c beta).testBit 0 = s then quadRoot c beta else quadRoot c beta ^^^ 1

/-- β = x + A + B/x² (R185). -/
def solverBeta (c : Cfg) (x : Nat) : Nat := fadd (fadd x c.aVal) (fdiv c c.bVal (fsqr c x))

/-- The curve-equation solver; `none` is fail (R185). -/
def ecsolve (c : Cfg) (x : Nat) (s : Bool) : Option Nat :=
  if x = 0 then (if s then none else some (fsqrt c c.bVal))
  else if ftr c (solverBeta c x) = 1 then none
  else some (fmul c x (quadRootSel c (solverBeta c x) s))

/-- The selector bit of an affine pair (R200). -/
def selBit (c : Cfg) (x y : Nat) : Bool :=
  if x = 0 then false else (fdiv c y x).testBit 0

/-- The compressed form of a point: the pair (cx, cb), with (0, 1) for O (R200). -/
def compress (c : Cfg) : Pt → Nat × Bool
  | .O => (0, true)
  | .aff x y => (x, selBit c x y)

/-- Decompression: O for the sentinel (0, 1), else what the solver gives; `none` is a failure (R205). -/
def decompress (c : Cfg) (x : Nat) (s : Bool) : Option Pt :=
  if x = 0 ∧ s = true then some .O
  else (ecsolve c x s).map fun y => .aff x y

/-- `n` doublings. -/
def ecdblTimes (c : Cfg) : Nat → Pt → Pt
  | 0, r => r
  | n + 1, r => ecdblTimes c n (ecdbl c r)

/-- The double-and-add loop over the bits n - 1 down to 0 of `k` (R240). -/
def mulLoop (c : Cfg) (k : Nat) (q : Pt) : Nat → Pt → Pt
  | 0, r => r
  | i + 1, r => mulLoop c k q i (if k.testBit i then ecadd c (ecdbl c r) q else ecdbl c r)

/-- General scalar multiplication over m bits (R240). -/
def scalarMul (c : Cfg) (k : Nat) (q : Pt) : Pt := mulLoop c k q c.deg .O

/-- The windowed loop over the windows n - 1 down to 0 of `k`, `t` giving the table's points (R225). -/
def windowLoop (c : Cfg) (w k : Nat) (t : Nat → Pt) : Nat → Pt → Pt
  | 0, r => r
  | j + 1, r => windowLoop c w k t j (ecadd c (ecdblTimes c w r) (t ((k >>> (j * w)) % 2 ^ w)))

/-- Fixed-base windowed multiplication with window size `w` and scalar length `l` (R225). -/
def windowMul (c : Cfg) (w l k : Nat) (t : Nat → Pt) : Pt := windowLoop c w k t ((l + w - 1) / w) .O

end Sys2Proof.Machine
end

