-- ==== Sys2Proof/Machine/Operands.lean ====
section
/-! DEFINITION. The operand forms: the register files, the point value of a point register and of a table entry, the
words of a multi-word value (10_state.md R32 to R39, 20_memory.md R84). -/

namespace Sys2Proof.Machine

/-- Word `k` of a multi-word value: bits [32k+31:32k] (R84). -/
def getWord {n : Nat} (v : BitVec n) (k : Nat) : Word := v.extractLsb' (32 * k) 32

/-- The value with word `k` replaced, every other word kept (R84, R90). -/
def setWord {n : Nat} (v : BitVec n) (k : Nat) (w : Word) : BitVec n :=
  (v &&& ~~~((0xFFFFFFFF#32).setWidth n <<< (32 * k))) ||| (w.setWidth n <<< (32 * k))

/-- Field register Fi (R32). -/
def State.fReg (s : State) (i : Nat) : Elem := s.fregs[i]?.getD 0

/-- Point register Pi (R35). -/
def State.pReg (s : State) (i : Nat) : PointReg := s.pregs[i]?.getD PointReg.infinity

/-- Scalar register Si (R38). -/
def State.sReg (s : State) (i : Nat) : Elem := s.sregs[i]?.getD 0

/-- Table entry T[i] (R39). -/
def State.tEntry (s : State) (i : Nat) : TableEntry := s.table[i]?.getD TableEntry.zero

/-- Writes field register Fi. -/
def State.setFReg (s : State) (i : Nat) (v : Elem) : State := { s with fregs := s.fregs.setIfInBounds i v }

/-- Writes the wide register. -/
def State.setWide (s : State) (v : WideElem) : State := { s with wide := v }

/-- Writes point register Pi. -/
def State.setPReg (s : State) (i : Nat) (v : PointReg) : State := { s with pregs := s.pregs.setIfInBounds i v }

/-- Writes scalar register Si. -/
def State.setSReg (s : State) (i : Nat) (v : Elem) : State := { s with sregs := s.sregs.setIfInBounds i v }

/-- Writes table entry T[i]. -/
def State.setTEntry (s : State) (i : Nat) (v : TableEntry) : State := { s with table := s.table.setIfInBounds i v }

/-- The point value a point register is read as (R35). -/
def PointReg.pt (r : PointReg) : Pt := if r.inf then .O else .aff r.x.toNat r.y.toNat

/-- The three parts a command writes for a point value (R36). -/
def PointReg.ofPt : Pt → PointReg
  | .O => PointReg.infinity
  | .aff x y => { inf := false, x := BitVec.ofNat 1024 x, y := BitVec.ofNat 1024 y }

/-- The point value a table entry is read as: the all-zero pair is O (R39). -/
def TableEntry.tpt (t : TableEntry) : Pt := if t.x = 0 ∧ t.y = 0 then .O else .aff t.x.toNat t.y.toNat

/-- The coordinates that stand for a point in the table: (0, 0) for O (44_brick.md R220). -/
def enc : Pt → Nat × Nat
  | .O => (0, 0)
  | .aff x y => (x, y)

/-- F[i] as an operand (00_scope.md R13). -/
def State.fVal (s : State) (i : FReg) : Nat := (s.fReg i.toNat).toNat

/-- pt(P[i]) as an operand (R35). -/
def State.ptVal (s : State) (i : PReg) : Pt := (s.pReg i.toNat).pt

/-- S[i] as an operand, an unsigned integer (R38). -/
def State.sVal (s : State) (i : SReg) : Nat := (s.sReg i.toNat).toNat

/-- tpt(i) (R39). -/
def State.tpt (s : State) (i : Nat) : Pt := (s.tEntry i).tpt

/-- F[i] <- v, zero-extended (00_scope.md R13). -/
def State.writeF (s : State) (i : FReg) (v : Nat) : State := s.setFReg i.toNat (BitVec.ofNat 1024 v)

/-- P[i] <- pt (R36). -/
def State.writeP (s : State) (i : PReg) (v : Pt) : State := s.setPReg i.toNat (PointReg.ofPt v)

/-- WIDE <- v, zero-extended (41_field.md R146). -/
def State.writeWide (s : State) (v : Nat) : State := s.setWide (BitVec.ofNat 2048 v)

/-- The field operand F[i] is canonical (R33). -/
def State.canonF (s : State) (i : FReg) : Bool := canon s.cfg (s.fVal i)

/-- The point operand P[i] is O or has canonical coordinates (60_exceptions.md R274 step 4). -/
def State.canonP (s : State) (i : PReg) : Bool := ptCanon s.cfg (s.ptVal i)

end Sys2Proof.Machine
end

