-- ==== Sys2Proof/Machine/Flags.lean ====
section
/-! DEFINITION. STATUS, PARAM and PINF as the words the host sees, and the flag and validity updates (10_state.md R37,
R40 to R44, R52, R53; 20_memory.md R87, R93). -/

namespace Sys2Proof.Machine

/-- The number of an error kind in STATUS.ERR (60_exceptions.md R271). -/
def ErrCode.code : ErrCode → BitVec 4
  | .none => 0
  | .invalidCurveParameters => 1
  | .invalidTable => 2
  | .decompressionFailure => 3
  | .invalidPoint => 4
  | .scalarOutOfRange => 5
  | .divisionByZero => 6
  | .illegalCommand => 7
  | .nonCanonicalOperand => 8

/-- The word a read of STATUS returns, high fields first (R42). -/
def Status.word (t : Status) : Word :=
  0#20 ++ t.err.code ++ 0#1 ++ BitVec.ofBool t.brkv ++ BitVec.ofBool t.cfgv ++ BitVec.ofBool t.sel ++
    BitVec.ofBool t.flag ++ BitVec.ofBool t.lost ++ BitVec.ofBool t.done ++ BitVec.ofBool t.busy

/-- The bits FLAG, SEL, CFGV and BRKV of STATUS, which read as any value during BUSY (R93). -/
def statusFreeMask : Word := 0x00000078#32

/-- The word a read of STATUS returns during BUSY, `d` giving the free bits (R93). -/
def Status.busyWord (t : Status) (d : Word) : Word := (t.word &&& ~~~statusFreeMask) ||| (d &&& statusFreeMask)

/-- A host write to STATUS: a 1 clears DONE or LOST, every other bit is ignored (R42). -/
def Status.w1c (t : Status) (v : Word) : Status :=
  { t with done := t.done && !v.getLsbD 1, lost := t.lost && !v.getLsbD 2 }

/-- The word a read of PARAM returns, high fields first (R44). -/
def paramWord (p : Params) : Word :=
  0x1#4 ++ BitVec.ofNat 4 (p.ns - 1) ++ 0#1 ++ BitVec.ofNat 3 (p.np - 1) ++ BitVec.ofNat 4 (p.nf - 1) ++
    BitVec.ofNat 4 p.wmax ++ BitVec.ofNat 12 p.mmax

/-- The INF bits of the implemented point registers, P0 first (R37). -/
def State.infBits (s : State) : List Bool := (List.range s.params.np).map fun j => (s.pReg j).inf

/-- The word a read of PINF returns: bits [31:NP] are zero (R37). -/
def State.pinfWord (s : State) : Word := (BitVec.ofBoolListLE s.infBits).setWidth 32

/-- A host write to PINF: every implemented INF bit takes the written value, X and Y stay (R37). -/
def State.writePinf (s : State) (v : Word) : State :=
  { s with pregs := s.pregs.mapIdx fun j r => if j < s.params.np then { r with inf := v.getLsbD j } else r }

/-- The interrupt output: DONE and IE (60_exceptions.md R276). -/
def State.irq (s : State) : Bool := s.status.done && s.ie

/-- Sets FLAG (R40). -/
def State.setFlag (s : State) (b : Bool) : State := { s with status := { s.status with flag := b } }

/-- Sets SEL (R41). -/
def State.setSel (s : State) (b : Bool) : State := { s with status := { s.status with sel := b } }

/-- Sets CFGV (R52). -/
def State.setCfgv (s : State) (b : Bool) : State := { s with status := { s.status with cfgv := b } }

/-- Sets BRKV (R53). -/
def State.setBrkv (s : State) (b : Bool) : State := { s with status := { s.status with brkv := b } }

/-- Every event that clears CFGV clears BRKV (R52, R53). -/
def State.invalidate (s : State) : State := (s.setCfgv false).setBrkv false

end Sys2Proof.Machine
end

