-- ==== Sys2Proof/Machine/Ops.lean ====
section
/-! DEFINITION. The shared operations of the engine: accepting a command, the checks in the order of R274, completing
with a code (60_exceptions.md R272 to R274), reset (70_reset_and_hazards.md R310). -/

namespace Sys2Proof.Machine

/-- The outcome of one step of this machine. -/
abbrev Outcome := Host.Outcome State Fault Refusal

/-- What a command's rule gives: the code it ends with, and the state with the effects of that code applied
(R272, R273). -/
structure Reply where
  code : ErrCode
  state : State
  deriving DecidableEq, Repr

/-- The command's effects, with code 0. -/
def succeed (s : State) : Reply := ⟨.none, s⟩

/-- `raise E`: the command ends with code E and none of its effects (00_scope.md R13, 60_exceptions.md R273). -/
def raise (e : ErrCode) (s : State) : Reply := ⟨e, s⟩

/-- One check of R274: go on if it holds, else raise. -/
def check (ok : Bool) (e : ErrCode) (s : State) (next : Reply) : Reply := if ok then next else raise e s

/-- Step 1 of R274: an illegal command reads and writes nothing else (R116). -/
def needLegal (i : Instr) (s : State) (next : Reply) : Reply := check (i.wf s.params) .illegalCommand s next

/-- Step 2 of R274: CFGV = 1. -/
def needCfgv (s : State) (next : Reply) : Reply := check s.status.cfgv .invalidCurveParameters s next

/-- Step 3 of R274: BRKV = 1. -/
def needBrkv (s : State) (next : Reply) : Reply := check s.status.brkv .invalidTable s next

/-- Step 4 of R274: the operands are canonical. -/
def needCanon (ok : Bool) (s : State) (next : Reply) : Reply := check ok .nonCanonicalOperand s next

/-- The end of every command: ERR <- code, BUSY <- 0, DONE <- 1 (R272). -/
def State.complete (s : State) (e : ErrCode) : State :=
  { s with status := { s.status with err := e, busy := false, done := true } }

/-- The engine's atomic update (R272). Every command completes: nothing traps (R270). -/
def Reply.finish (r : Reply) : Outcome := .next (r.state.complete r.code)

/-- The acceptance of a command word (20_memory.md R91). -/
def State.accept (s : State) (w : Word) : State :=
  { s with cmd := w, status := { s.status with busy := true, done := false, err := .none } }

/-- The command in CMD, as the decoder reads it (10_state.md R43, R55). -/
def fetch (s : State) : Except DecodeError Instr := decode s.params s.cmd

/-- The completion of an illegal command word (30_encoding.md R116). DEDUCED, unsafe: it keeps BRKV also for an illegal
word with the opcode of BCHK or CFGCHK, by R116 and 60_exceptions.md R273 over 10_state.md R53 (assumption log 25). -/
def illegalCompletion (s : State) : Outcome := (raise .illegalCommand s).finish

/-- The reset input: every piece of state takes its reset value, a command in flight is abandoned, and the inputs that
come after the reset stay to come (70_reset_and_hazards.md R310). -/
def unitReset (s : State) : State := { State.resetWith s.params s.draw with inbox := s.inbox }

end Sys2Proof.Machine
end

