-- ==== Sys2Proof/Machine/Bus.lean ====
section
/-! DEFINITION. Host bus accesses: the aperture map, reads, writes and the busy window (20_memory.md). -/

namespace Sys2Proof.Machine

/-- The words of the aperture, by the names of R85; `k` is a word's slot in its window. -/
inductive Loc where
  | param | ctrl | status | cmd
  | cfgM | cfgEA | cfgEB | cfgEC | cfgW | cfgL
  | pinf
  | cfgA (k : Nat) | cfgB (k : Nat) | cfgGX (k : Nat) | cfgGY (k : Nat)
  | f (i k : Nat)
  | wide (k : Nat)
  | pX (j k : Nat) | pY (j k : Nat)
  | s (i k : Nat)
  | tX (i k : Nat) | tY (i k : Nat)
  deriving DecidableEq, Repr

/-- The offset of each word (R85). -/
def Loc.offset : Loc → Nat
  | .param => 0x000
  | .ctrl => 0x004
  | .status => 0x008
  | .cmd => 0x00C
  | .cfgM => 0x010
  | .cfgEA => 0x014
  | .cfgEB => 0x018
  | .cfgEC => 0x01C
  | .cfgW => 0x020
  | .cfgL => 0x024
  | .pinf => 0x030
  | .cfgA k => 0x100 + 4 * k
  | .cfgB k => 0x180 + 4 * k
  | .cfgGX k => 0x200 + 4 * k
  | .cfgGY k => 0x280 + 4 * k
  | .f i k => 0x400 + 0x80 * i + 4 * k
  | .wide k => 0xC00 + 4 * k
  | .pX j k => 0x1000 + 0x100 * j + 4 * k
  | .pY j k => 0x1080 + 0x100 * j + 4 * k
  | .s i k => 0x1800 + 0x80 * i + 4 * k
  | .tX i k => 0x10000 + 0x100 * i + 4 * k
  | .tY i k => 0x10080 + 0x100 * i + 4 * k

/-- The build implements the word (R85, R86). -/
def Loc.implemented (p : Params) : Loc → Bool
  | .param => true
  | .ctrl => true
  | .status => true
  | .cmd => true
  | .cfgM => true
  | .cfgEA => true
  | .cfgEB => true
  | .cfgEC => true
  | .cfgW => true
  | .cfgL => true
  | .pinf => true
  | .cfgA k => decide (k < p.wordsMax)
  | .cfgB k => decide (k < p.wordsMax)
  | .cfgGX k => decide (k < p.wordsMax)
  | .cfgGY k => decide (k < p.wordsMax)
  | .f i k => decide (i < p.nf) && decide (k < p.wordsMax)
  | .wide k => decide (k < 2 * p.wordsMax)
  | .pX j k => decide (j < p.np) && decide (k < p.wordsMax)
  | .pY j k => decide (j < p.np) && decide (k < p.wordsMax)
  | .s i k => decide (i < p.ns) && decide (k < p.wordsMax)
  | .tX i k => decide (i < p.tableSize) && decide (k < p.wordsMax)
  | .tY i k => decide (i < p.tableSize) && decide (k < p.wordsMax)

/-- The word at an offset of the control block, 0x000 to 0x0FF (R85). -/
def controlLoc (off : Nat) : Option Loc :=
  match off with
  | 0x000 => some .param
  | 0x004 => some .ctrl
  | 0x008 => some .status
  | 0x00C => some .cmd
  | 0x010 => some .cfgM
  | 0x014 => some .cfgEA
  | 0x018 => some .cfgEB
  | 0x01C => some .cfgEC
  | 0x020 => some .cfgW
  | 0x024 => some .cfgL
  | 0x030 => some .pinf
  | _ => none

/-- The word slot at a multiple of 4, whether or not the build implements it (R85). -/
def slotAt (off : Nat) : Option Loc :=
  if off < 0x100 then controlLoc off
  else if off < 0x180 then some (.cfgA ((off - 0x100) / 4))
  else if off < 0x200 then some (.cfgB ((off - 0x180) / 4))
  else if off < 0x280 then some (.cfgGX ((off - 0x200) / 4))
  else if off < 0x300 then some (.cfgGY ((off - 0x280) / 4))
  else if off < 0x400 then none
  else if off < 0xC00 then some (.f ((off - 0x400) / 0x80) ((off - 0x400) % 0x80 / 4))
  else if off < 0xD00 then some (.wide ((off - 0xC00) / 4))
  else if off < 0x1000 then none
  else if off < 0x1800 then
    if (off - 0x1000) % 0x100 < 0x80 then some (.pX ((off - 0x1000) / 0x100) ((off - 0x1000) % 0x100 / 4))
    else some (.pY ((off - 0x1000) / 0x100) (((off - 0x1000) % 0x100 - 0x80) / 4))
  else if off < 0x2000 then some (.s ((off - 0x1800) / 0x80) ((off - 0x1800) % 0x80 / 4))
  else if off < 0x10000 then none
  else if off < 0x20000 then
    if (off - 0x10000) % 0x100 < 0x80 then some (.tX ((off - 0x10000) / 0x100) ((off - 0x10000) % 0x100 / 4))
    else some (.tY ((off - 0x10000) / 0x100) (((off - 0x10000) % 0x100 - 0x80) / 4))
  else none

/-- The implemented word at an offset, if there is one (R81, R85, R86). -/
def locate (p : Params) (off : Nat) : Option Loc :=
  if off % 4 = 0 then (slotAt off).filter (Loc.implemented p) else none

/-- The value of a word when no command is in flight (R84, R85, R87). -/
def State.readLoc (s : State) : Loc → Word
  | .param => paramWord s.params
  | .ctrl => (BitVec.ofBool s.ie).setWidth 32
  | .status => s.status.word
  | .cmd => s.cmd
  | .cfgM => s.cfg.m.setWidth 32
  | .cfgEA => s.cfg.ea.setWidth 32
  | .cfgEB => s.cfg.eb.setWidth 32
  | .cfgEC => s.cfg.ec.setWidth 32
  | .cfgW => s.cfg.w.setWidth 32
  | .cfgL => s.cfg.l.setWidth 32
  | .pinf => s.pinfWord
  | .cfgA k => getWord s.cfg.a k
  | .cfgB k => getWord s.cfg.b k
  | .cfgGX k => getWord s.cfg.gx k
  | .cfgGY k => getWord s.cfg.gy k
  | .f i k => getWord (s.fReg i) k
  | .wide k => getWord s.wide k
  | .pX j k => getWord (s.pReg j).x k
  | .pY j k => getWord (s.pReg j).y k
  | .s i k => getWord (s.sReg i) k
  | .tX i k => getWord (s.tEntry i).x k
  | .tY i k => getWord (s.tEntry i).y k

/-- The words that read as any value during BUSY: F, WIDE, P, PINF, S and T (R93). -/
def Loc.anyWhenBusy : Loc → Bool
  | .param => false
  | .ctrl => false
  | .status => false
  | .cmd => false
  | .cfgM => false
  | .cfgEA => false
  | .cfgEB => false
  | .cfgEC => false
  | .cfgW => false
  | .cfgL => false
  | .pinf => true
  | .cfgA _ => false
  | .cfgB _ => false
  | .cfgGX _ => false
  | .cfgGY _ => false
  | .f _ _ => true
  | .wide _ => true
  | .pX _ _ => true
  | .pY _ _ => true
  | .s _ _ => true
  | .tX _ _ => true
  | .tY _ _ => true

/-- What a host read of a word returns; `d` is the free value it may take during BUSY (R93). -/
def State.readData (s : State) (l : Loc) (d : Word) : Word :=
  if s.status.busy && l.anyWhenBusy then d
  else if s.status.busy && decide (l = .status) then s.status.busyWord d
  else s.readLoc l

/-- A host read: it changes nothing of the unit (R88). A read during BUSY draws a free value (R93). -/
def hostRead (l : Loc) (s : State) : State :=
  { s with
    answer := .data (s.readData l (Config.freeWord s.draw))
    draw := if s.status.busy then s.draw + 1 else s.draw }

/-- A host write that is not dropped, with its side effects (R87, R89, R91). -/
def State.writeLoc (s : State) (v : Word) : Loc → State
  | .param => s
  | .ctrl => { s with ie := v.getLsbD 0 }
  | .status => { s with status := s.status.w1c v }
  | .cmd => s.accept v
  | .cfgM => { s with cfg := { s.cfg with m := v.setWidth 16 } }.invalidate
  | .cfgEA => { s with cfg := { s.cfg with ea := v.setWidth 16 } }.invalidate
  | .cfgEB => { s with cfg := { s.cfg with eb := v.setWidth 16 } }.invalidate
  | .cfgEC => { s with cfg := { s.cfg with ec := v.setWidth 16 } }.invalidate
  | .cfgW => { s with cfg := { s.cfg with w := v.setWidth 4 } }.setBrkv false
  | .cfgL => { s with cfg := { s.cfg with l := v.setWidth 16 } }.setBrkv false
  | .pinf => s.writePinf v
  | .cfgA k => { s with cfg := { s.cfg with a := setWord s.cfg.a k v } }.invalidate
  | .cfgB k => { s with cfg := { s.cfg with b := setWord s.cfg.b k v } }.invalidate
  | .cfgGX k => { s with cfg := { s.cfg with gx := setWord s.cfg.gx k v } }.setBrkv false
  | .cfgGY k => { s with cfg := { s.cfg with gy := setWord s.cfg.gy k v } }.setBrkv false
  | .f i k => s.setFReg i (setWord (s.fReg i) k v)
  | .wide k => s.setWide (setWord s.wide k v)
  | .pX j k => s.setPReg j { s.pReg j with x := setWord (s.pReg j).x k v }
  | .pY j k => s.setPReg j { s.pReg j with y := setWord (s.pReg j).y k v }
  | .s i k => s.setSReg i (setWord (s.sReg i) k v)
  | .tX i k => (s.setTEntry i { s.tEntry i with x := setWord (s.tEntry i).x k v }).setBrkv false
  | .tY i k => (s.setTEntry i { s.tEntry i with y := setWord (s.tEntry i).y k v }).setBrkv false

/-- The words a host may write during BUSY (R92). -/
def Loc.writableWhenBusy (l : Loc) : Bool := decide (l = .ctrl) || decide (l = .status)

/-- A dropped write stores nothing and sets LOST (R92). -/
def State.dropWrite (s : State) : State := { s with status := { s.status with lost := true } }

/-- A host write: during BUSY all but those to CTRL and STATUS are dropped (R92). -/
def hostWrite (l : Loc) (v : Word) (s : State) : State :=
  { (if s.status.busy && !l.writableWhenBusy then s.dropWrite else s.writeLoc v l) with answer := .written }

/-- The effect of an access to an implemented word. -/
def hostAccessAt (l : Loc) (k : AccessKind) (s : State) : State :=
  match k with
  | .read => hostRead l s
  | .write v => hostWrite l v s

/-- The word an admitted access names: 32 bits wide, at an offset that is mapped (R81, R82). -/
def Access.target (a : Access) (p : Params) : Option Loc :=
  if a.width = 32 then locate p (a.addr - p.base) else none

/-- The bus address lies in the aperture (R80). -/
def Access.inAperture (a : Access) (p : Params) : Bool :=
  decide (p.base ≤ a.addr) && decide (a.addr < p.base + Config.apertureSize)

/-- One host bus access: admitted, a bus error (R82, R279), or not this unit's (assumption log 4). -/
def hostAccess (a : Access) (s : State) : Outcome :=
  if a.inAperture s.params then
    match a.target s.params with
    | some l => .next (hostAccessAt l a.kind s)
    | none => .fault .busError
  else .refused .outsideAperture

end Sys2Proof.Machine
end

