-- ==== Sys2Proof/Machine/Brick.lean ====
section
/-! DEFINITION. The Brick family (44_brick.md): the windowed organisation, T[i] = i·G (90_conflicts.md C1). -/

namespace Sys2Proof.Machine

/-- W, the window size (R47). -/
def Cfg.window (c : Cfg) : Nat := c.w.toNat

/-- L, the supported scalar length (R48). -/
def Cfg.combLen (c : Cfg) : Nat := c.l.toNat

/-- G, the fixed generator (R50). -/
def Cfg.gen (c : Cfg) : Pt := .aff c.gx.toNat c.gy.toNat

/-- Table entry i holds exactly the coordinates that stand for the point (R220: all REGW bits are compared). -/
def State.entryIs (s : State) (i : Nat) (r : Pt) : Bool :=
  decide (((s.tEntry i).x.toNat, (s.tEntry i).y.toNat) = enc r)

/-- The loop of BCHK over `n` entries from entry `i` on, `r` being (i-1)·G (R220). -/
def State.entriesFrom (s : State) : Nat → Nat → Pt → Bool
  | 0, _, _ => true
  | n + 1, i, r =>
    s.entryIs i (ecadd s.cfg r s.cfg.gen) && s.entriesFrom n (i + 1) (ecadd s.cfg r s.cfg.gen)

/-- The conditions of BCHK (R220). -/
def State.brickOk (s : State) : Bool :=
  (decide (1 ≤ s.cfg.window) && decide (s.cfg.window ≤ s.params.wmax)) &&
  (decide (1 ≤ s.cfg.combLen) && decide (s.cfg.combLen ≤ s.cfg.deg)) &&
  (canon s.cfg s.cfg.gx.toNat && canon s.cfg s.cfg.gy.toNat && oncurve s.cfg s.cfg.gen) &&
  s.entryIs 0 .O &&
  s.entriesFrom (2 ^ s.cfg.window - 1) 1 .O

/-- BCHK: sets BRKV, or clears it and raises InvalidTable (R220, R273). -/
def execBchk (s : State) : Outcome :=
  (needLegal .bchk s <| needCfgv s <|
    if s.brickOk then succeed (s.setBrkv true) else raise .invalidTable (s.setBrkv false)).finish

/-- BMUL Pd, Sa (R225). -/
def execBmul (rd : PReg) (ra : SReg) (s : State) : Outcome :=
  (needLegal (.bmul rd ra) s <| needCfgv s <| needBrkv s <|
    check (decide (s.sVal ra < 2 ^ s.cfg.combLen)) .scalarOutOfRange s <|
    succeed (s.writeP rd (windowMul s.cfg s.cfg.window s.cfg.combLen (s.sVal ra) s.tpt))).finish

end Sys2Proof.Machine
end

