-- ==== Sys2Proof/Machine/Codec.lean ====
section
/-! DEFINITION. The codec family (43_codec.md). -/

namespace Sys2Proof.Machine

/-- PCMP Fd, Pa: cx into Fd, cb into SEL (R201). -/
def execPcmp (rd : FReg) (ra : PReg) (s : State) : Outcome :=
  (needLegal (.pcmp rd ra) s <| needCfgv s <| needCanon (s.canonP ra) s <|
    succeed ((s.writeF rd (compress s.cfg (s.ptVal ra)).1).setSel (compress s.cfg (s.ptVal ra)).2)).finish

/-- PDEC Pd, Fa, #s (R205). -/
def execPdec (rd : PReg) (ra : FReg) (sel : Bool) (s : State) : Outcome :=
  (needLegal (.pdec rd ra sel) s <| needCfgv s <| needCanon (s.canonF ra) s <|
    match decompress s.cfg (s.fVal ra) sel with
    | some pt => succeed (s.writeP rd pt)
    | none => raise .decompressionFailure s).finish

end Sys2Proof.Machine
end

