-- ==== Sys2Proof/Machine/Control.lean ====
section
/-! DEFINITION. The control family (46_control.md). None of its commands needs CFGV = 1. -/

namespace Sys2Proof.Machine

/-- NOP: completes with code 0 (R250). -/
def execNop (s : State) : Outcome := (needLegal .nop s <| succeed s).finish

/-- The conditions of CFGCHK (R252). -/
def State.cfgOk (s : State) : Bool :=
  (decide (2 ≤ s.cfg.deg) && decide (s.cfg.deg ≤ s.params.mmax)) && polyShapeOk s.cfg &&
    rabin (redPoly s.cfg) s.cfg.deg &&
    (decide (s.cfg.aVal < 2 ^ s.cfg.deg) && decide (s.cfg.bVal < 2 ^ s.cfg.deg) && decide (s.cfg.bVal ≠ 0))

/-- CFGCHK: sets CFGV, or clears CFGV and BRKV and raises InvalidCurveParameters (R252, R273). -/
def execCfgchk (s : State) : Outcome :=
  (needLegal .cfgchk s <|
    if s.cfgOk then succeed (s.setCfgv true) else raise .invalidCurveParameters s.invalidate).finish

/-- Clears every register that holds session material, and FLAG and SEL (R255). -/
def State.zeroize (s : State) : State :=
  ({ s with
      fregs := Vector.replicate 16 0
      wide := 0
      sregs := Vector.replicate 16 0
      pregs := Vector.replicate 8 PointReg.infinity }.setFlag false).setSel false

/-- ZEROIZE (R255). -/
def execZeroize (s : State) : Outcome := (needLegal .zeroize s <| succeed s.zeroize).finish

end Sys2Proof.Machine
end

