-- ==== Sys2Proof/Machine/Curve.lean ====
section
/-! DEFINITION. The curve family (42_curve.md). PDBL and PADD do not check that their inputs lie on the curve (R188). -/

namespace Sys2Proof.Machine

/-- PCHK Pa: the on-curve test, into FLAG (R171). -/
def execPchk (ra : PReg) (s : State) : Outcome :=
  (needLegal (.pchk ra) s <| needCfgv s <| needCanon (s.canonP ra) s <|
    succeed (s.setFlag (oncurve s.cfg (s.ptVal ra)))).finish

/-- PDBL Pd, Pa (R176). -/
def execPdbl (rd ra : PReg) (s : State) : Outcome :=
  (needLegal (.pdbl rd ra) s <| needCfgv s <| needCanon (s.canonP ra) s <|
    succeed (s.writeP rd (ecdbl s.cfg (s.ptVal ra)))).finish

/-- PADD Pd, Pa, Pb (R181). -/
def execPadd (rd ra rb : PReg) (s : State) : Outcome :=
  (needLegal (.padd rd ra rb) s <| needCfgv s <| needCanon (s.canonP ra && s.canonP rb) s <|
    succeed (s.writeP rd (ecadd s.cfg (s.ptVal ra) (s.ptVal rb)))).finish

/-- SOLVEY Fd, Fa, #s (R186). -/
def execSolvey (rd ra : FReg) (sel : Bool) (s : State) : Outcome :=
  (needLegal (.solvey rd ra sel) s <| needCfgv s <| needCanon (s.canonF ra) s <|
    match ecsolve s.cfg (s.fVal ra) sel with
    | some y => succeed (s.writeF rd y)
    | none => raise .decompressionFailure s).finish

end Sys2Proof.Machine
end

