-- ==== Sys2Proof/Machine/Field.lean ====
section
/-! DEFINITION. The field family (41_field.md). The checks stand in the order of 60_exceptions.md R274. -/

namespace Sys2Proof.Machine

/-- FADD Fd, Fa, Fb (R141). -/
def execFadd (rd ra rb : FReg) (s : State) : Outcome :=
  (needLegal (.fadd rd ra rb) s <| needCfgv s <| needCanon (s.canonF ra && s.canonF rb) s <|
    succeed (s.writeF rd (fadd (s.fVal ra) (s.fVal rb)))).finish

/-- FMUL Fd, Fa, Fb (R142). -/
def execFmul (rd ra rb : FReg) (s : State) : Outcome :=
  (needLegal (.fmul rd ra rb) s <| needCfgv s <| needCanon (s.canonF ra && s.canonF rb) s <|
    succeed (s.writeF rd (fmul s.cfg (s.fVal ra) (s.fVal rb)))).finish

/-- FSQR Fd, Fa (R143). -/
def execFsqr (rd ra : FReg) (s : State) : Outcome :=
  (needLegal (.fsqr rd ra) s <| needCfgv s <| needCanon (s.canonF ra) s <|
    succeed (s.writeF rd (fsqr s.cfg (s.fVal ra)))).finish

/-- FINV Fd, Fa: inversion fails on the additive identity (R144). -/
def execFinv (rd ra : FReg) (s : State) : Outcome :=
  (needLegal (.finv rd ra) s <| needCfgv s <| needCanon (s.canonF ra) s <|
    check (decide (s.fVal ra ≠ 0)) .divisionByZero s <|
    succeed (s.writeF rd (finv s.cfg (s.fVal ra)))).finish

/-- FCLMUL Fa, Fb: the product without reduction, into WIDE (R146). -/
def execFclmul (ra rb : FReg) (s : State) : Outcome :=
  (needLegal (.fclmul ra rb) s <| needCfgv s <| needCanon (s.canonF ra && s.canonF rb) s <|
    succeed (s.writeWide (clmul (s.fVal ra) (s.fVal rb)))).finish

/-- FRED Fd: the remainder of WIDE, which has no canonical check (R147). -/
def execFred (rd : FReg) (s : State) : Outcome :=
  (needLegal (.fred rd) s <| needCfgv s <|
    succeed (s.writeF rd (polymod s.wide.toNat (redPoly s.cfg)))).finish

end Sys2Proof.Machine
end

