-- ==== Sys2Proof/Machine/Scalar.lean ====
section
/-! DEFINITION. The scalar family (45_scalar.md). -/

namespace Sys2Proof.Machine

/-- SMUL Pd, Sa, Pb: the base point is validated, O fails too (R240). -/
def execSmul (rd : PReg) (ra : SReg) (rb : PReg) (s : State) : Outcome :=
  (needLegal (.smul rd ra rb) s <| needCfgv s <| needCanon (s.canonP rb) s <|
    check (decide (s.sVal ra < 2 ^ s.cfg.deg)) .scalarOutOfRange s <|
    check (oncurve s.cfg (s.ptVal rb)) .invalidPoint s <|
    succeed (s.writeP rd (scalarMul s.cfg (s.sVal ra) (s.ptVal rb)))).finish

end Sys2Proof.Machine
end

