-- ==== Sys2Proof/Machine/Dispatch.lean ====
section
/-! DEFINITION. exec: one arm per command. -/

namespace Sys2Proof.Machine

def exec (i : Instr) (s : State) : Host.Outcome State Fault Refusal :=
  match i with
  | .nop => Sys2Proof.Machine.execNop s
  | .cfgchk => Sys2Proof.Machine.execCfgchk s
  | .zeroize => Sys2Proof.Machine.execZeroize s
  | .fadd rd ra rb => Sys2Proof.Machine.execFadd rd ra rb s
  | .fmul rd ra rb => Sys2Proof.Machine.execFmul rd ra rb s
  | .fsqr rd ra => Sys2Proof.Machine.execFsqr rd ra s
  | .finv rd ra => Sys2Proof.Machine.execFinv rd ra s
  | .fclmul ra rb => Sys2Proof.Machine.execFclmul ra rb s
  | .fred rd => Sys2Proof.Machine.execFred rd s
  | .pchk ra => Sys2Proof.Machine.execPchk ra s
  | .pdbl rd ra => Sys2Proof.Machine.execPdbl rd ra s
  | .padd rd ra rb => Sys2Proof.Machine.execPadd rd ra rb s
  | .solvey rd ra sel => Sys2Proof.Machine.execSolvey rd ra sel s
  | .pcmp rd ra => Sys2Proof.Machine.execPcmp rd ra s
  | .pdec rd ra sel => Sys2Proof.Machine.execPdec rd ra sel s
  | .bchk => Sys2Proof.Machine.execBchk s
  | .bmul rd ra => Sys2Proof.Machine.execBmul rd ra s
  | .smul rd ra rb => Sys2Proof.Machine.execSmul rd ra rb s

end Sys2Proof.Machine
end

