-- ==== Sys2Proof/Machine/Step.lean ====
section
/-! DEFINITION. One step of the unit: the next input, or the engine's turn (10_state.md R30, 20_memory.md R94,
60_exceptions.md R272; assumption log 1). -/

namespace Sys2Proof.Machine

/-- The engine's turn: its step is enabled exactly when BUSY = 1 (R272); otherwise the unit is idle and holds all
state (R287). -/
def engineTurn (s : State) : Host.Outcome State Fault Refusal :=
  if s.status.busy then
    match fetch s with
    | .ok i => exec i s
    | .error _ => illegalCompletion s
  else .next s

/-- One step. With no input pending it is the engine's turn, so that a command in flight completes (weak fairness,
R272). -/
def step (s : State) : Host.Outcome State Fault Refusal :=
  match s.inbox with
  | [] => engineTurn s
  | .engine :: rest => engineTurn { s with inbox := rest }
  | .access a :: rest => hostAccess a { s with inbox := rest }
  | .reset :: rest => .next (unitReset { s with inbox := rest })

/-- The state in which the command word has just been accepted (R91) and the engine moves next: a program is the host's
sequence of CMD writes, and this stands for one (assumption log 14). -/
def State.withFetchWord (s : State) (nbits w : Nat) : State :=
  { s.accept (tableWord nbits w) with inbox := .engine :: s.inbox }

end Sys2Proof.Machine
end

