-- ==== Sys2Proof/Safety.lean ====
section
/-! DEFINITION. What a claim about the unit is said in: the invariant of its runs, what a command leaves alone, and a
run without a bus error. -/

namespace Sys2Proof.Machine

/-- The register files hold nothing in the bits and slots the build does not implement (00_scope.md R10; 10_state.md
R32 to R39, R49, R50; assumption log 13). -/
structure State.Fits (s : State) : Prop where
  fWidth : ∀ i, (s.fReg i).toNat < 2 ^ s.params.regw
  fAbsent : ∀ i, s.params.nf ≤ i → s.fReg i = 0
  wideWidth : s.wide.toNat < 2 ^ (2 * s.params.regw)
  pWidthX : ∀ j, (s.pReg j).x.toNat < 2 ^ s.params.regw
  pWidthY : ∀ j, (s.pReg j).y.toNat < 2 ^ s.params.regw
  pAbsent : ∀ j, s.params.np ≤ j → s.pReg j = PointReg.infinity
  sWidth : ∀ k, (s.sReg k).toNat < 2 ^ s.params.regw
  sAbsent : ∀ k, s.params.ns ≤ k → s.sReg k = 0
  tWidthX : ∀ i, (s.tEntry i).x.toNat < 2 ^ s.params.regw
  tWidthY : ∀ i, (s.tEntry i).y.toNat < 2 ^ s.params.regw
  tAbsent : ∀ i, s.params.tableSize ≤ i → s.tEntry i = TableEntry.zero
  aWidth : s.cfg.a.toNat < 2 ^ s.params.regw
  bWidth : s.cfg.b.toNat < 2 ^ s.params.regw
  gxWidth : s.cfg.gx.toNat < 2 ^ s.params.regw
  gyWidth : s.cfg.gy.toNat < 2 ^ s.params.regw

/-- The validity bits say what they stand for: CFGV = 1 only while the configuration passes CFGCHK's conditions, and
BRKV = 1 only while CFGV = 1 and the table passes BCHK's (10_state.md R52, R53). -/
structure State.Valid (s : State) : Prop where
  cfgv : s.status.cfgv = true → s.cfgOk = true
  brkv : s.status.brkv = true → s.status.cfgv = true ∧ s.brickOk = true

/-- While a command is in flight DONE and ERR are 0 (10_state.md R42, 20_memory.md R93). -/
def State.BusyClear (s : State) : Prop := s.status.busy = true → s.status.done = false ∧ s.status.err = .none

/-- The invariant of every run: it rules out the states no run of the unit reaches. -/
structure State.Inv (s : State) : Prop where
  fits : s.Fits
  valid : s.Valid
  busyClear : s.BusyClear

/-- What no command touches: the parameters, CTRL, CMD, the configuration, the table and LOST (10_state.md R54), and
the model's own fields. -/
structure KeepsShared (s t : State) : Prop where
  params : t.params = s.params
  ie : t.ie = s.ie
  cmd : t.cmd = s.cmd
  cfg : t.cfg = s.cfg
  table : t.table = s.table
  lost : t.status.lost = s.status.lost
  draw : t.draw = s.draw
  inbox : t.inbox = s.inbox
  answer : t.answer = s.answer

/-- The validity bits are unchanged. -/
structure KeepsValidity (s t : State) : Prop where
  cfgv : t.status.cfgv = s.status.cfgv
  brkv : t.status.brkv = s.status.brkv

/-- FLAG and SEL are unchanged. -/
structure KeepsFlags (s t : State) : Prop where
  flag : t.status.flag = s.status.flag
  sel : t.status.sel = s.status.sel

/-- The session registers F, WIDE, P and S are unchanged. -/
structure KeepsSession (s t : State) : Prop where
  f : ∀ i, t.fReg i = s.fReg i
  wide : t.wide = s.wide
  p : ∀ j, t.pReg j = s.pReg j
  s : ∀ k, t.sReg k = s.sReg k

/-- The session registers but Fd are unchanged. -/
structure KeepsSessionButF (d : Nat) (s t : State) : Prop where
  f : ∀ i, i ≠ d → t.fReg i = s.fReg i
  wide : t.wide = s.wide
  p : ∀ j, t.pReg j = s.pReg j
  s : ∀ k, t.sReg k = s.sReg k

/-- The session registers but WIDE are unchanged. -/
structure KeepsSessionButWide (s t : State) : Prop where
  f : ∀ i, t.fReg i = s.fReg i
  p : ∀ j, t.pReg j = s.pReg j
  s : ∀ k, t.sReg k = s.sReg k

/-- The session registers but Pd are unchanged. -/
structure KeepsSessionButP (d : Nat) (s t : State) : Prop where
  f : ∀ i, t.fReg i = s.fReg i
  wide : t.wide = s.wide
  p : ∀ j, j ≠ d → t.pReg j = s.pReg j
  s : ∀ k, t.sReg k = s.sReg k

/-- How a completion leaves STATUS: ERR is the code, BUSY is 0, DONE is 1 (60_exceptions.md R272). -/
structure EndsWith (e : ErrCode) (t : State) : Prop where
  err : t.status.err = e
  busy : t.status.busy = false
  done : t.status.done = true

/-- A completion with code 0 whose only destination is Fd. -/
structure SucceedsInF (d : Nat) (s t : State) : Prop where
  ends : EndsWith .none t
  shared : KeepsShared s t
  validity : KeepsValidity s t
  flags : KeepsFlags s t
  session : KeepsSessionButF d s t

/-- A completion with code 0 whose only destination is Pd. -/
structure SucceedsInP (d : Nat) (s t : State) : Prop where
  ends : EndsWith .none t
  shared : KeepsShared s t
  validity : KeepsValidity s t
  flags : KeepsFlags s t
  session : KeepsSessionButP d s t

/-- A completion with an error code that changes nothing but ERR, BUSY and DONE (60_exceptions.md R273). -/
structure FailsWith (e : ErrCode) (s t : State) : Prop where
  ends : EndsWith e t
  shared : KeepsShared s t
  validity : KeepsValidity s t
  flags : KeepsFlags s t
  session : KeepsSession s t

/-- Point register Pd holds exactly what a command writes for the point value: INF = 1 and X = Y = 0 for O, INF = 0
and the coordinates for an affine pair (10_state.md R36). -/
def HoldsPoint (t : State) (d : Nat) : Pt → Prop
  | .O => (t.pReg d).inf = true ∧ (t.pReg d).x = 0 ∧ (t.pReg d).y = 0
  | .aff x y => (t.pReg d).inf = false ∧ (t.pReg d).x.toNat = x ∧ (t.pReg d).y.toNat = y

/-- The command completes with the error code and changes nothing but ERR, BUSY and DONE (60_exceptions.md R273). -/
def Raises (i : Instr) (s : State) (e : ErrCode) : Prop := ∃ t, exec i s = .next t ∧ FailsWith e s t

/-- The two checks that come first in every command that needs a valid configuration (60_exceptions.md R274 steps 1
and 2). -/
def GateErrors (i : Instr) (s : State) : Prop :=
  (i.wf s.params = false → Raises i s .illegalCommand) ∧
  (i.wf s.params = true → s.status.cfgv = false → Raises i s .invalidCurveParameters)

/-- The command passes the checks of R274 steps 1 and 2. -/
def PassesGate (i : Instr) (s : State) : Prop := i.wf s.params = true ∧ s.status.cfgv = true

/-- `r` is the remainder of `w` modulo `f`, whose degree is `d`: canonical, and different from `w` by a multiple of `f`
(00_scope.md R14). -/
def IsRemainder (w f d r : Nat) : Prop := r < 2 ^ d ∧ ∃ q, w = clmul q f ^^^ r

/-- `r` is twice the point, by the doubling formula without a division: the slope is the λ with x·(λ + x) = y
(42_curve.md R175). -/
def IsDouble (c : Cfg) (p r : Pt) : Prop :=
  match p with
  | .O => r = .O
  | .aff x y =>
    if x = 0 then r = .O
    else ∃ lam x' y', lam < 2 ^ c.deg ∧ fmul c x (fadd lam x) = y ∧
      x' = fadd (fadd (fsqr c lam) lam) c.aVal ∧
      y' = fadd (fadd (fsqr c x) (fmul c lam x')) x' ∧ r = .aff x' y'

/-- `r` is the sum of the points, the cases in the order of R180 and the chord without a division: the slope is the λ
with λ·(x1 + x2) = y1 + y2 (42_curve.md R180). -/
def IsSum (c : Cfg) (p q r : Pt) : Prop :=
  match p, q with
  | .O, q => r = q
  | .aff x1 y1, .O => r = .aff x1 y1
  | .aff x1 y1, .aff x2 y2 =>
    if x1 = x2 ∧ y1 = y2 then IsDouble c (.aff x1 y1) r
    else if x1 = x2 then r = .O
    else ∃ lam x3 y3, lam < 2 ^ c.deg ∧ fmul c lam (fadd x1 x2) = fadd y1 y2 ∧
      x3 = fadd (fadd (fadd (fadd (fsqr c lam) lam) x1) x2) c.aVal ∧
      y3 = fadd (fadd (fmul c lam (fadd x1 x3)) x3) y1 ∧ r = .aff x3 y3

/-- `y` solves the curve equation for `x` with selector `sel` (42_curve.md R185): for x = 0 the selector is 0 and
y² = B; for x ≠ 0 y = x·z for the root z of z² + z = β with z[0] = sel, where β is the value with
x²·(β + x + A) = B. -/
def SolvesWith (c : Cfg) (x : Nat) (sel : Bool) (y : Nat) : Prop :=
  y < 2 ^ c.deg ∧
  if x = 0 then sel = false ∧ fsqr c y = c.bVal
  else ∃ beta z, beta < 2 ^ c.deg ∧ fmul c (fsqr c x) (fadd (fadd beta x) c.aVal) = c.bVal ∧
    z < 2 ^ c.deg ∧ fadd (fsqr c z) z = beta ∧ z.testBit 0 = sel ∧ y = fmul c x z

/-- The solver must fail at `x` and `sel` (42_curve.md R185): x = 0 with selector 1, or x ≠ 0 with the trace of β 1. -/
def SolverFails (c : Cfg) (x : Nat) (sel : Bool) : Prop :=
  if x = 0 then sel = true
  else ∃ beta, beta < 2 ^ c.deg ∧ fmul c (fsqr c x) (fadd (fadd beta x) c.aVal) = c.bVal ∧ ftr c beta = 1

/-- `n` times the point, by repeated addition: 0·q = O and (n+1)·q = n·q + q (44_brick.md R220, 45_scalar.md R241). -/
def multiple (c : Cfg) (q : Pt) : Nat → Pt
  | 0 => .O
  | n + 1 => ecadd c (multiple c q n) q

/-- The host's pending inputs hold only accesses the unit admits, engine turns and resets (20_memory.md R81, R82). -/
def Event.Admitted (p : Params) : Event → Prop
  | .access a => a.inAperture p = true ∧ (a.target p).isSome = true
  | .engine => True
  | .reset => True

/-- A safe run of `n` steps: none of them is a bus error or a refusal. -/
def SafeFor (n : Nat) (s : State) : Prop := ∃ t, Host.Core.run Sys2Proof.core n s = .next t

end Sys2Proof.Machine
end

