-- ==== Sys2Proof/Certificates/Slice0/Obligations.lean ====
section
/-! DEFINITION. What this model states for the provers. Each docstring names the rule of spec/ it formalises. -/

open Sys2Proof Sys2Proof.Machine

/-! ### Encoding (30_encoding.md) -/

/-- The example words of R119 decode, in the default build, to the commands they stand for. -/
def Obligations.SampleWordsDecode : Prop :=
  decodeTableWord 32 0x11201000 = some (.fmul 2 0 1) ∧
  decodeTableWord 32 0x13320000 = some (.finv 3 2) ∧
  decodeTableWord 32 0x14045000 = some (.fclmul 4 5) ∧
  decodeTableWord 32 0x15600000 = some (.fred 6) ∧
  decodeTableWord 32 0x20010000 = some (.pchk 1) ∧
  decodeTableWord 32 0x23100001 = some (.solvey 1 0 true) ∧
  decodeTableWord 32 0x31200001 = some (.pdec 2 0 true) ∧
  decodeTableWord 32 0x41000000 = some (.bmul 0 0) ∧
  decodeTableWord 32 0x50312000 = some (.smul 3 1 2) ∧
  decodeTableWord 32 0x01000000 = some .cfgchk

/-- Decoding the word of a well-formed command gives the command back, in every build (R110 to R115). -/
def Obligations.DecodeEncodeRoundTrip : Prop :=
  ∀ (p : Params) (i : Instr), i.wf p = true → decode p (encode i) = .ok i

/-- A word that decodes is the one word of its command, and the command is well-formed (R111, R116). -/
def Obligations.DecodedWordIsItsEncoding : Prop :=
  ∀ (p : Params) (w : Word) (i : Instr), decode p w = .ok i → i.wf p = true ∧ encode i = w

/-- The (match, mask) rows of R113 and R115, as the opcode table writes them out. -/
def opcodeRows : List (Word × Word) :=
  [(0x00000000, 0xFFFFFFFF), (0x01000000, 0xFFFFFFFF), (0x02000000, 0xFFFFFFFF),
   (0x10000000, 0xFF000FFF), (0x11000000, 0xFF000FFF), (0x12000000, 0xFF00FFFF),
   (0x13000000, 0xFF00FFFF), (0x14000000, 0xFFF00FFF), (0x15000000, 0xFF0FFFFF),
   (0x20000000, 0xFFF0FFFF), (0x21000000, 0xFF00FFFF), (0x22000000, 0xFF000FFF),
   (0x23000000, 0xFF00FFFE), (0x30000000, 0xFF00FFFF), (0x31000000, 0xFF00FFFE),
   (0x40000000, 0xFFFFFFFF), (0x41000000, 0xFF00FFFF), (0x50000000, 0xFF000FFF)]

/-- A word is legal exactly if it matches a row under the row's mask and its command uses only implemented registers;
no word matches two rows (R115). -/
def Obligations.LegalWordsAreTableRows : Prop :=
  (∀ (p : Params) (w : Word), (∃ i, decode p w = .ok i) ↔
    (∃ r ∈ opcodeRows, w &&& r.2 = r.1) ∧ ∀ i, decodeOpcode w = some i → i.wf p = true) ∧
  opcodeRows.Pairwise fun r q => ∀ w : Word, w &&& r.2 = r.1 → w &&& q.2 ≠ q.1

/-! ### The step and the shape of a completion (60_exceptions.md) -/

/-- On the engine's turn a step runs the command the decoder reads from CMD, and a unit that is not busy holds its state
(R272, R287). The turn comes when no input is pending or the next one is the engine's (the model's choice, log 1). -/
def Obligations.StepRunsDecodedCommand : Prop :=
  ∀ (s : State) (rest : List Event),
    (∀ i, s.status.busy = true → fetch s = .ok i →
      (s.inbox = [] → step s = exec i s) ∧
      (s.inbox = .engine :: rest → step s = exec i { s with inbox := rest })) ∧
    (s.status.busy = false →
      (s.inbox = [] → step s = .next s) ∧
      (s.inbox = .engine :: rest → step s = .next { s with inbox := rest }))

/-- The three illegal cases of R116 complete with IllegalCommand and change nothing else: an unassigned opcode, a
must-be-zero bit that is 1, an index past its file. It holds in both forms of the engine's turn (the model's choice,
log 1 and log 16). That BRKV is kept for an illegal word with the opcode of BCHK or CFGCHK is the model's reading
(log 25). -/
def Obligations.IllegalWordCompletesIllegal : Prop :=
  ∀ (s : State) (rest : List Event), s.status.busy = true →
    (decodeOpcode s.cmd = none ∨
      ∃ i, decodeOpcode s.cmd = some i ∧ (s.cmd &&& i.format.zeroMask ≠ 0#32 ∨ i.wf s.params = false)) →
    (s.inbox = [] → ∃ t, step s = .next t ∧ FailsWith .illegalCommand s t) ∧
    (s.inbox = .engine :: rest →
      ∃ t, step s = .next t ∧ FailsWith .illegalCommand { s with inbox := rest } t)

/-- Every command completes: it never traps, halts or locks up, BUSY is 0 and DONE is 1 after it (R270, R272). -/
def Obligations.EveryCommandCompletes : Prop :=
  ∀ (i : Instr) (s : State), ∃ t, exec i s = .next t ∧ t.status.busy = false ∧ t.status.done = true

/-- A command that completes with a nonzero code writes no destination; its only effects are those R273 lists. -/
def Obligations.ErrorWritesNoDestination : Prop :=
  ∀ (i : Instr) (s t : State), exec i s = .next t → t.status.err ≠ .none →
    EndsWith t.status.err t ∧ KeepsShared s t ∧ KeepsFlags s t ∧ KeepsSession s t ∧
    (i = .cfgchk ∧ t.status.err = .invalidCurveParameters → t.status.cfgv = false ∧ t.status.brkv = false) ∧
    (i = .bchk ∧ t.status.err = .invalidTable → t.status.brkv = false ∧ t.status.cfgv = s.status.cfgv) ∧
    (¬(i = .cfgchk ∧ t.status.err = .invalidCurveParameters) → ¬(i = .bchk ∧ t.status.err = .invalidTable) →
      KeepsValidity s t)

/-- The commands that need CFGV = 1: all but NOP, CFGCHK and ZEROIZE (R274 step 2). -/
def needsConfig (i : Instr) : Prop := i ≠ .nop ∧ i ≠ .cfgchk ∧ i ≠ .zeroize

/-- The field registers a command reads as field values through RA or RB (R274 step 4, R114). -/
def fieldOperands : Instr → List FReg
  | .fadd _ a b => [a, b]
  | .fmul _ a b => [a, b]
  | .fsqr _ a => [a]
  | .finv _ a => [a]
  | .fclmul a b => [a, b]
  | .solvey _ a _ => [a]
  | .pdec _ a _ => [a]
  | .nop | .cfgchk | .zeroize | .fred _ | .pchk _ | .pdbl _ _ | .padd _ _ _ | .pcmp _ _ | .bchk | .bmul _ _
  | .smul _ _ _ => []

/-- The point registers a command reads as points through RA or RB (R274 step 4, R114). -/
def pointOperands : Instr → List PReg
  | .pchk a => [a]
  | .pdbl _ a => [a]
  | .padd _ a b => [a, b]
  | .pcmp _ a => [a]
  | .smul _ _ b => [b]
  | .nop | .cfgchk | .zeroize | .fadd _ _ _ | .fmul _ _ _ | .fsqr _ _ | .finv _ _ | .fclmul _ _ | .fred _
  | .solvey _ _ _ | .pdec _ _ _ | .bchk | .bmul _ _ => []

/-- Every operand the command reads as a field value or a point is canonical. -/
def operandsCanonical (i : Instr) (s : State) : Prop :=
  (∀ a ∈ fieldOperands i, s.canonF a = true) ∧ (∀ a ∈ pointOperands i, s.canonP a = true)

/-- A command reports the first check that fails, in the order of R274: steps 1 to 6, and the own failures of step 7 of
FINV, SOLVEY and PDEC (those of CFGCHK and BCHK, which also clear validity bits, are in their own statements). -/
def Obligations.FirstFailingCheckIsReported : Prop :=
  ∀ (i : Instr) (s : State),
    (i.wf s.params = false → Raises i s .illegalCommand) ∧
    (i.wf s.params = true → needsConfig i → s.status.cfgv = false → Raises i s .invalidCurveParameters) ∧
    (∀ d a, i = .bmul d a → i.wf s.params = true → s.status.cfgv = true → s.status.brkv = false →
      Raises i s .invalidTable) ∧
    (i.wf s.params = true → s.status.cfgv = true → ¬operandsCanonical i s → Raises i s .nonCanonicalOperand) ∧
    (∀ d a, i = .bmul d a → i.wf s.params = true → s.status.cfgv = true → s.status.brkv = true →
      2 ^ s.cfg.combLen ≤ s.sVal a → Raises i s .scalarOutOfRange) ∧
    (∀ d a b, i = .smul d a b → i.wf s.params = true → s.status.cfgv = true → operandsCanonical i s →
      (2 ^ s.cfg.deg ≤ s.sVal a → Raises i s .scalarOutOfRange) ∧
      (s.sVal a < 2 ^ s.cfg.deg → oncurve s.cfg (s.ptVal b) = false → Raises i s .invalidPoint)) ∧
    (∀ d a, i = .finv d a → i.wf s.params = true → s.status.cfgv = true → operandsCanonical i s →
      s.fVal a = 0 → Raises i s .divisionByZero) ∧
    (∀ d a sel, i = .solvey d a sel → i.wf s.params = true → s.status.cfgv = true → operandsCanonical i s →
      ecsolve s.cfg (s.fVal a) sel = none → Raises i s .decompressionFailure) ∧
    (∀ d a sel, i = .pdec d a sel → i.wf s.params = true → s.status.cfgv = true → operandsCanonical i s →
      decompress s.cfg (s.fVal a) sel = none → Raises i s .decompressionFailure)

/-! ### What no command writes, and who writes what (10_state.md) -/

/-- No command writes a configuration register or the table; over steps, only a host write or a reset changes them
(R54). -/
def Obligations.CommandsKeepConfiguration : Prop :=
  (∀ (i : Instr) (s t : State), exec i s = .next t → t.cfg = s.cfg ∧ t.table = s.table) ∧
  (∀ s t : State, step s = .next t → (t.cfg ≠ s.cfg ∨ t.table ≠ s.table) →
    ∃ rest, (∃ a v, s.inbox = .access a :: rest ∧ a.kind = .write v) ∨ s.inbox = .reset :: rest)

/-- Among the commands only PCHK and ZEROIZE change FLAG (R40), only PCMP and ZEROIZE change SEL (R41), only FCLMUL and
ZEROIZE change WIDE (R34), and only ZEROIZE changes a scalar register (R38). -/
def Obligations.FlagSelWideScalarWriters : Prop :=
  ∀ (i : Instr) (s t : State), exec i s = .next t →
    (t.status.flag ≠ s.status.flag → (∃ a, i = .pchk a) ∨ i = .zeroize) ∧
    (t.status.sel ≠ s.status.sel → (∃ d a, i = .pcmp d a) ∨ i = .zeroize) ∧
    (t.wide ≠ s.wide → (∃ a b, i = .fclmul a b) ∨ i = .zeroize) ∧
    (∀ k, t.sReg k ≠ s.sReg k → i = .zeroize)

/-- CFGV rises only in a step that runs CFGCHK on a configuration that passes, BRKV only in a step that runs BCHK on a
table that passes with CFGV = 1 (R52, R53). -/
def Obligations.ValidityBitsAreEarned : Prop :=
  ∀ s t : State, step s = .next t →
    (s.status.cfgv = false → t.status.cfgv = true →
      s.status.busy = true ∧ fetch s = .ok .cfgchk ∧ s.cfgOk = true) ∧
    (s.status.brkv = false → t.status.brkv = true →
      s.status.busy = true ∧ fetch s = .ok .bchk ∧ s.status.cfgv = true ∧ s.brickOk = true)

/-- The state after any reset of any build meets the invariant. -/
def Obligations.ResetMeetsInvariant : Prop :=
  (∀ (p : Params) (n : Nat), (State.resetWith p n).Inv) ∧ State.reset.Inv

/-- Every step keeps the invariant: CFGV = 1 only with a configuration that passes CFGCHK's conditions, BRKV = 1 only
with a table that passes BCHK's, DONE and ERR 0 while BUSY, nothing past the implemented bits and registers (R33, R52,
R53, R93). -/
def Obligations.StepKeepsInvariant : Prop := ∀ s t : State, s.Inv → step s = .next t → t.Inv

/-! ### The field family (41_field.md) -/

/-- FADD, whole (R141). -/
def Obligations.FaddRule : Prop :=
  ∀ (d a b : FReg) (s : State),
    encode (.fadd d a b) = 0x10#8 ++ d ++ a ++ b ++ 0#11 ++ 0#1 ∧
    GateErrors (.fadd d a b) s ∧
    (PassesGate (.fadd d a b) s → (s.canonF a && s.canonF b) = false →
      Raises (.fadd d a b) s .nonCanonicalOperand) ∧
    (PassesGate (.fadd d a b) s → s.canonF a = true → s.canonF b = true →
      ∃ t, exec (.fadd d a b) s = .next t ∧ SucceedsInF d.toNat s t ∧
        t.fVal d = s.fVal a ^^^ s.fVal b ∧ t.canonF d = true)

/-- FMUL, whole: the product's remainder modulo f (R142). -/
def Obligations.FmulRule : Prop :=
  ∀ (d a b : FReg) (s : State), s.Inv →
    encode (.fmul d a b) = 0x11#8 ++ d ++ a ++ b ++ 0#11 ++ 0#1 ∧
    GateErrors (.fmul d a b) s ∧
    (PassesGate (.fmul d a b) s → (s.canonF a && s.canonF b) = false →
      Raises (.fmul d a b) s .nonCanonicalOperand) ∧
    (PassesGate (.fmul d a b) s → s.canonF a = true → s.canonF b = true →
      ∃ t, exec (.fmul d a b) s = .next t ∧ SucceedsInF d.toNat s t ∧
        IsRemainder (clmul (s.fVal a) (s.fVal b)) (redPoly s.cfg) s.cfg.deg (t.fVal d))

/-- FSQR, whole: equal to FMUL of the operand with itself (R143). -/
def Obligations.FsqrRule : Prop :=
  ∀ (d a : FReg) (s : State), s.Inv →
    encode (.fsqr d a) = 0x12#8 ++ d ++ a ++ 0#4 ++ 0#11 ++ 0#1 ∧
    GateErrors (.fsqr d a) s ∧
    (PassesGate (.fsqr d a) s → s.canonF a = false → Raises (.fsqr d a) s .nonCanonicalOperand) ∧
    (PassesGate (.fsqr d a) s → s.canonF a = true →
      ∃ t, exec (.fsqr d a) s = .next t ∧ SucceedsInF d.toNat s t ∧
        IsRemainder (clmul (s.fVal a) (s.fVal a)) (redPoly s.cfg) s.cfg.deg (t.fVal d) ∧
        exec (.fmul d a a) s = .next t)

/-- FINV, whole: the unique canonical inverse, and DivisionByZero on zero (R144). -/
def Obligations.FinvRule : Prop :=
  ∀ (d a : FReg) (s : State), s.Inv →
    encode (.finv d a) = 0x13#8 ++ d ++ a ++ 0#4 ++ 0#11 ++ 0#1 ∧
    GateErrors (.finv d a) s ∧
    (PassesGate (.finv d a) s → s.canonF a = false → Raises (.finv d a) s .nonCanonicalOperand) ∧
    (PassesGate (.finv d a) s → s.canonF a = true → s.fVal a = 0 → Raises (.finv d a) s .divisionByZero) ∧
    (PassesGate (.finv d a) s → s.canonF a = true → s.fVal a ≠ 0 →
      ∃ t, exec (.finv d a) s = .next t ∧ SucceedsInF d.toNat s t ∧ t.canonF d = true ∧
        fmul s.cfg (s.fVal a) (t.fVal d) = 1 ∧
        ∀ v, v < 2 ^ s.cfg.deg → fmul s.cfg (s.fVal a) v = 1 → v = t.fVal d)

/-- FCLMUL, whole: bit k of WIDE is the exclusive-or of the products u[i]·v[k-i] (R146 with the product of 00_scope.md
R14). -/
def Obligations.FclmulRule : Prop :=
  ∀ (a b : FReg) (s : State), s.Inv →
    encode (.fclmul a b) = 0x14#8 ++ 0#4 ++ a ++ b ++ 0#11 ++ 0#1 ∧
    GateErrors (.fclmul a b) s ∧
    (PassesGate (.fclmul a b) s → (s.canonF a && s.canonF b) = false →
      Raises (.fclmul a b) s .nonCanonicalOperand) ∧
    (PassesGate (.fclmul a b) s → s.canonF a = true → s.canonF b = true →
      ∃ t, exec (.fclmul a b) s = .next t ∧ EndsWith .none t ∧ KeepsShared s t ∧ KeepsValidity s t ∧
        KeepsFlags s t ∧ KeepsSessionButWide s t ∧
        ∀ k, t.wide.toNat.testBit k =
          decide (((List.range (k + 1)).filter fun i =>
            (s.fVal a).testBit i && (s.fVal b).testBit (k - i)).length % 2 = 1))

/-- FRED, whole: the exact remainder of WIDE, whatever it holds; it has no canonical check (R147). -/
def Obligations.FredRule : Prop :=
  ∀ (d : FReg) (s : State), s.Inv →
    encode (.fred d) = 0x15#8 ++ d ++ 0#4 ++ 0#4 ++ 0#11 ++ 0#1 ∧
    GateErrors (.fred d) s ∧
    (PassesGate (.fred d) s →
      ∃ t, exec (.fred d) s = .next t ∧ SucceedsInF d.toNat s t ∧
        IsRemainder s.wide.toNat (redPoly s.cfg) s.cfg.deg (t.fVal d))

/-- FCLMUL Fa, Fb followed by FRED Fd leaves in Fd what FMUL Fd, Fa, Fb does (R146's corner case). -/
def Obligations.FclmulThenFredIsFmul : Prop :=
  ∀ (d a b : FReg) (s : State), PassesGate (.fmul d a b) s → s.Inv → s.canonF a = true → s.canonF b = true →
    ∃ t u v, exec (.fclmul a b) s = .next t ∧ exec (.fred d) t = .next u ∧ exec (.fmul d a b) s = .next v ∧
      u.status.err = .none ∧ v.status.err = .none ∧ u.fregs = v.fregs

/-- The laws of R149, for canonical values while CFGV = 1. -/
def Obligations.FieldLaws : Prop :=
  ∀ s : State, s.Inv → s.status.cfgv = true →
    ∀ u v w, u < 2 ^ s.cfg.deg → v < 2 ^ s.cfg.deg → w < 2 ^ s.cfg.deg →
      (fadd u u = 0 ∧ fadd u v = fadd v u ∧ fadd (fadd u v) w = fadd u (fadd v w) ∧ fadd u 0 = u) ∧
      (fmul s.cfg u v = fmul s.cfg v u ∧
        fmul s.cfg (fmul s.cfg u v) w = fmul s.cfg u (fmul s.cfg v w)) ∧
      fmul s.cfg u (fadd v w) = fadd (fmul s.cfg u v) (fmul s.cfg u w) ∧
      (fmul s.cfg u 1 = u ∧ fmul s.cfg u 0 = 0) ∧
      (u ≠ 0 → fmul s.cfg u (finv s.cfg u) = 1) ∧
      fsqr s.cfg (fadd u v) = fadd (fsqr s.cfg u) (fsqr s.cfg v)

/-- The shift-and-xor reduction of R148 returns the remainder, for every polynomial of the two shapes of R140. -/
def Obligations.ShiftXorReductionIsRemainder : Prop :=
  ∀ (c : Cfg) (w : Nat), polyShapeOk c = true → reduceShiftXor c w = polymod w (redPoly c)

/-! ### The curve family (42_curve.md) -/

/-- PCHK, whole: FLAG is the curve equation at an affine point, 0 at O (R171 with R170). -/
def Obligations.PchkRule : Prop :=
  ∀ (a : PReg) (s : State),
    encode (.pchk a) = 0x20#8 ++ 0#4 ++ a ++ 0#4 ++ 0#11 ++ 0#1 ∧
    GateErrors (.pchk a) s ∧
    (PassesGate (.pchk a) s → s.canonP a = false → Raises (.pchk a) s .nonCanonicalOperand) ∧
    (PassesGate (.pchk a) s → s.canonP a = true →
      ∃ t, exec (.pchk a) s = .next t ∧ EndsWith .none t ∧ KeepsShared s t ∧ KeepsValidity s t ∧
        KeepsSession s t ∧ t.status.sel = s.status.sel ∧
        (t.status.flag = true ↔ ∃ x y, s.ptVal a = .aff x y ∧
          fadd (fsqr s.cfg y) (fmul s.cfg x y) =
            fadd (fadd (fmul s.cfg (fsqr s.cfg x) x) (fmul s.cfg s.cfg.aVal (fsqr s.cfg x))) s.cfg.bVal))

/-- PDBL, whole: the doubling formula, on and off the curve (R176 with R175). -/
def Obligations.PdblRule : Prop :=
  ∀ (d a : PReg) (s : State), s.Inv →
    encode (.pdbl d a) = 0x21#8 ++ d ++ a ++ 0#4 ++ 0#11 ++ 0#1 ∧
    GateErrors (.pdbl d a) s ∧
    (PassesGate (.pdbl d a) s → s.canonP a = false → Raises (.pdbl d a) s .nonCanonicalOperand) ∧
    (PassesGate (.pdbl d a) s → s.canonP a = true →
      ∃ t r, exec (.pdbl d a) s = .next t ∧ SucceedsInP d.toNat s t ∧
        IsDouble s.cfg (s.ptVal a) r ∧ HoldsPoint t d.toNat r)

/-- PADD, whole: the cases of R180 in their order, on and off the curve (R181 with R180). -/
def Obligations.PaddRule : Prop :=
  ∀ (d a b : PReg) (s : State), s.Inv →
    encode (.padd d a b) = 0x22#8 ++ d ++ a ++ b ++ 0#11 ++ 0#1 ∧
    GateErrors (.padd d a b) s ∧
    (PassesGate (.padd d a b) s → (s.canonP a && s.canonP b) = false →
      Raises (.padd d a b) s .nonCanonicalOperand) ∧
    (PassesGate (.padd d a b) s → s.canonP a = true → s.canonP b = true →
      ∃ t r, exec (.padd d a b) s = .next t ∧ SucceedsInP d.toNat s t ∧
        IsSum s.cfg (s.ptVal a) (s.ptVal b) r ∧ HoldsPoint t d.toNat r)

/-- Addition is commutative for all canonical inputs, on and off the curve (R181's corner case). -/
def Obligations.AdditionCommutes : Prop :=
  ∀ (s : State) (p q : Pt), s.Inv → s.status.cfgv = true → ptCanon s.cfg p = true → ptCanon s.cfg q = true →
    ecadd s.cfg p q = ecadd s.cfg q p

/-- SOLVEY, whole: the y of R185 for x and the selector, or DecompressionFailure (R186 with R185). -/
def Obligations.SolveyRule : Prop :=
  ∀ (d a : FReg) (sel : Bool) (s : State), s.Inv →
    encode (.solvey d a sel) = 0x23#8 ++ d ++ a ++ 0#4 ++ 0#11 ++ BitVec.ofBool sel ∧
    GateErrors (.solvey d a sel) s ∧
    (PassesGate (.solvey d a sel) s → s.canonF a = false → Raises (.solvey d a sel) s .nonCanonicalOperand) ∧
    (PassesGate (.solvey d a sel) s → s.canonF a = true → SolverFails s.cfg (s.fVal a) sel →
      Raises (.solvey d a sel) s .decompressionFailure) ∧
    (PassesGate (.solvey d a sel) s → s.canonF a = true → ¬SolverFails s.cfg (s.fVal a) sel →
      ∃ t, exec (.solvey d a sel) s = .next t ∧ SucceedsInF d.toNat s t ∧
        SolvesWith s.cfg (s.fVal a) sel (t.fVal d) ∧ curveEq s.cfg (s.fVal a) (t.fVal d) = true)

/-- z² + z = β has a canonical root exactly if the trace of β is 0, and then exactly one with each value of bit 0, the
one the solver takes (R185); the solver's method `quadRootSel` is the model's (log 11). -/
def Obligations.QuadraticRoots : Prop :=
  ∀ (s : State) (beta : Nat), s.Inv → s.status.cfgv = true → beta < 2 ^ s.cfg.deg →
    (ftr s.cfg beta = 0 ∨ ftr s.cfg beta = 1) ∧
    (ftr s.cfg beta = 1 → ∀ z, z < 2 ^ s.cfg.deg → fadd (fsqr s.cfg z) z ≠ beta) ∧
    (ftr s.cfg beta = 0 → ∀ sel z, (z < 2 ^ s.cfg.deg ∧ fadd (fsqr s.cfg z) z = beta ∧ z.testBit 0 = sel) ↔
      z = quadRootSel s.cfg beta sel)

/-! ### The codec family (43_codec.md) -/

/-- PCMP, whole: (0, 1) for O, selector 0 for x = 0, else bit 0 of the z with x·z = y (R201 with R200). -/
def Obligations.PcmpRule : Prop :=
  ∀ (d : FReg) (a : PReg) (s : State), s.Inv →
    encode (.pcmp d a) = 0x30#8 ++ d ++ a ++ 0#4 ++ 0#11 ++ 0#1 ∧
    GateErrors (.pcmp d a) s ∧
    (PassesGate (.pcmp d a) s → s.canonP a = false → Raises (.pcmp d a) s .nonCanonicalOperand) ∧
    (PassesGate (.pcmp d a) s → s.canonP a = true →
      ∃ t, exec (.pcmp d a) s = .next t ∧ EndsWith .none t ∧ KeepsShared s t ∧ KeepsValidity s t ∧
        t.status.flag = s.status.flag ∧ KeepsSessionButF d.toNat s t ∧
        (s.ptVal a = .O → t.fVal d = 0 ∧ t.status.sel = true) ∧
        (∀ x y, s.ptVal a = .aff x y → t.fVal d = x ∧
          (x = 0 → t.status.sel = false) ∧
          (x ≠ 0 → ∃ z, z < 2 ^ s.cfg.deg ∧ fmul s.cfg x z = y ∧ t.status.sel = z.testBit 0)))

/-- PDEC, whole: O for the sentinel (0, 1), else the point of the solver's y, or DecompressionFailure; what it writes is
on the curve or is O (R205 with R185). -/
def Obligations.PdecRule : Prop :=
  ∀ (d : PReg) (a : FReg) (sel : Bool) (s : State), s.Inv →
    encode (.pdec d a sel) = 0x31#8 ++ d ++ a ++ 0#4 ++ 0#11 ++ BitVec.ofBool sel ∧
    GateErrors (.pdec d a sel) s ∧
    (PassesGate (.pdec d a sel) s → s.canonF a = false → Raises (.pdec d a sel) s .nonCanonicalOperand) ∧
    (PassesGate (.pdec d a sel) s → s.canonF a = true → s.fVal a ≠ 0 → SolverFails s.cfg (s.fVal a) sel →
      Raises (.pdec d a sel) s .decompressionFailure) ∧
    (PassesGate (.pdec d a sel) s → s.fVal a = 0 → sel = true →
      ∃ t, exec (.pdec d a sel) s = .next t ∧ SucceedsInP d.toNat s t ∧ HoldsPoint t d.toNat .O) ∧
    (PassesGate (.pdec d a sel) s → s.canonF a = true → ¬SolverFails s.cfg (s.fVal a) sel →
      ∃ t y, exec (.pdec d a sel) s = .next t ∧ SucceedsInP d.toNat s t ∧
        SolvesWith s.cfg (s.fVal a) sel y ∧ HoldsPoint t d.toNat (.aff (s.fVal a) y) ∧
        oncurve s.cfg (t.ptVal d) = true)

/-- PCMP Fd, Pa followed by PDEC Pe, Fd with the selector SEL gives back every point that is on the curve or is O
(R206). -/
def Obligations.CompressionRoundTrip : Prop :=
  ∀ (d : FReg) (a e : PReg) (s : State), s.Inv → s.status.cfgv = true →
    s.params.fOk d = true → s.params.pOk a = true → s.params.pOk e = true → s.canonP a = true →
    (s.ptVal a = .O ∨ oncurve s.cfg (s.ptVal a) = true) →
    ∃ t u, exec (.pcmp d a) s = .next t ∧ t.status.err = .none ∧
      exec (.pdec e d t.status.sel) t = .next u ∧ u.status.err = .none ∧ u.ptVal e = s.ptVal a

/-! ### The Brick family (44_brick.md) -/

/-- The conditions of R220 on W, L, G and the table: T[0] is all zero and entry i holds the coordinates of i·G. -/
def TableMatches (s : State) : Prop :=
  (1 ≤ s.cfg.window ∧ s.cfg.window ≤ s.params.wmax) ∧ (1 ≤ s.cfg.combLen ∧ s.cfg.combLen ≤ s.cfg.deg) ∧
  s.cfg.gx.toNat < 2 ^ s.cfg.deg ∧ s.cfg.gy.toNat < 2 ^ s.cfg.deg ∧ oncurve s.cfg s.cfg.gen = true ∧
  (s.tEntry 0).x = 0 ∧ (s.tEntry 0).y = 0 ∧
  ∀ i, 1 ≤ i → i < 2 ^ s.cfg.window →
    ((s.tEntry i).x.toNat, (s.tEntry i).y.toNat) = enc (multiple s.cfg s.cfg.gen i)

/-- BCHK, whole: BRKV is set if the table matches, cleared with InvalidTable if not (R220). -/
def Obligations.BchkRule : Prop :=
  ∀ s : State,
    encode .bchk = 0x40000000#32 ∧
    GateErrors .bchk s ∧
    (s.status.cfgv = true → TableMatches s →
      ∃ t, exec .bchk s = .next t ∧ EndsWith .none t ∧ KeepsShared s t ∧ KeepsFlags s t ∧ KeepsSession s t ∧
        t.status.cfgv = true ∧ t.status.brkv = true) ∧
    (s.status.cfgv = true → ¬TableMatches s →
      ∃ t, exec .bchk s = .next t ∧ EndsWith .invalidTable t ∧ KeepsShared s t ∧ KeepsFlags s t ∧
        KeepsSession s t ∧ t.status.cfgv = true ∧ t.status.brkv = false)

/-- BMUL, whole: the windowed loop over the table (R225); the loop is the model's `windowMul`, which is written from the
rule's pseudocode. -/
def Obligations.BmulRule : Prop :=
  ∀ (d : PReg) (a : SReg) (s : State), s.Inv →
    encode (.bmul d a) = 0x41#8 ++ d ++ a ++ 0#4 ++ 0#11 ++ 0#1 ∧
    GateErrors (.bmul d a) s ∧
    (PassesGate (.bmul d a) s → s.status.brkv = false → Raises (.bmul d a) s .invalidTable) ∧
    (PassesGate (.bmul d a) s → s.status.brkv = true → 2 ^ s.cfg.combLen ≤ s.sVal a →
      Raises (.bmul d a) s .scalarOutOfRange) ∧
    (PassesGate (.bmul d a) s → s.status.brkv = true → s.sVal a < 2 ^ s.cfg.combLen →
      ∃ t, exec (.bmul d a) s = .next t ∧ SucceedsInP d.toNat s t ∧
        HoldsPoint t d.toNat (windowMul s.cfg s.cfg.window s.cfg.combLen (s.sVal a) s.tpt))

/-- While BRKV = 1, for every scalar k < 2^L in Sa and G in Pb, BMUL and SMUL both complete with code 0 and leave k·G,
the same point (R226). -/
def Obligations.FixedBaseAgreesWithGeneral : Prop :=
  ∀ (d b : PReg) (a : SReg) (s : State), s.Inv → PassesGate (.bmul d a) s → PassesGate (.smul d a b) s →
    s.status.brkv = true → s.sVal a < 2 ^ s.cfg.combLen → s.ptVal b = s.cfg.gen →
    ∃ t u, exec (.bmul d a) s = .next t ∧ exec (.smul d a b) s = .next u ∧
      t.status.err = .none ∧ u.status.err = .none ∧
      HoldsPoint t d.toNat (multiple s.cfg s.cfg.gen (s.sVal a)) ∧
      HoldsPoint u d.toNat (multiple s.cfg s.cfg.gen (s.sVal a)) ∧ u = t

/-! ### The scalar family (45_scalar.md) -/

/-- SMUL, whole: the double-and-add loop over m bits (R240); the loop is the model's `scalarMul`, which is written from
the rule's pseudocode. -/
def Obligations.SmulRule : Prop :=
  ∀ (d : PReg) (a : SReg) (b : PReg) (s : State), s.Inv →
    encode (.smul d a b) = 0x50#8 ++ d ++ a ++ b ++ 0#11 ++ 0#1 ∧
    GateErrors (.smul d a b) s ∧
    (PassesGate (.smul d a b) s → s.canonP b = false → Raises (.smul d a b) s .nonCanonicalOperand) ∧
    (PassesGate (.smul d a b) s → s.canonP b = true → 2 ^ s.cfg.deg ≤ s.sVal a →
      Raises (.smul d a b) s .scalarOutOfRange) ∧
    (PassesGate (.smul d a b) s → s.canonP b = true → s.sVal a < 2 ^ s.cfg.deg →
      oncurve s.cfg (s.ptVal b) = false → Raises (.smul d a b) s .invalidPoint) ∧
    (PassesGate (.smul d a b) s → s.canonP b = true → s.sVal a < 2 ^ s.cfg.deg →
      oncurve s.cfg (s.ptVal b) = true →
      ∃ t, exec (.smul d a b) s = .next t ∧ SucceedsInP d.toNat s t ∧
        HoldsPoint t d.toNat (scalarMul s.cfg (s.sVal a) (s.ptVal b)))

/-- For a base q on the curve and k < 2^m, SMUL leaves k·q, and multiples of q commute: j·(k·q) = k·(j·q) (R241). -/
def Obligations.ScalarMulIsMultiple : Prop :=
  ∀ (d : PReg) (a : SReg) (b : PReg) (s : State), s.Inv → PassesGate (.smul d a b) s → s.canonP b = true →
    s.sVal a < 2 ^ s.cfg.deg → oncurve s.cfg (s.ptVal b) = true →
    (∃ t, exec (.smul d a b) s = .next t ∧ SucceedsInP d.toNat s t ∧
      HoldsPoint t d.toNat (multiple s.cfg (s.ptVal b) (s.sVal a))) ∧
    ∀ j k, multiple s.cfg (multiple s.cfg (s.ptVal b) k) j = multiple s.cfg (multiple s.cfg (s.ptVal b) j) k

/-! ### The control family (46_control.md) -/

/-- NOP, whole: it completes with code 0 and does nothing, with or without CFGV; the interrupt rises if IE = 1
(R250). -/
def Obligations.NopRule : Prop :=
  encode .nop = 0x00000000#32 ∧
  ∀ s : State, ∃ t, exec .nop s = .next t ∧ EndsWith .none t ∧ KeepsShared s t ∧ KeepsValidity s t ∧
    KeepsFlags s t ∧ KeepsSession s t ∧ t.irq = s.ie

/-- What R252 asks of the configuration, with irreducibility as the rule defines it. -/
def ConfigurationLegal (s : State) : Prop :=
  2 ≤ s.cfg.deg ∧ s.cfg.deg ≤ s.params.mmax ∧
  ((s.cfg.ec.toNat = 0 ∧ s.cfg.eb.toNat = 0 ∧ 1 ≤ s.cfg.ea.toNat ∧ s.cfg.ea.toNat < s.cfg.deg) ∨
    (s.cfg.deg > s.cfg.ea.toNat ∧ s.cfg.ea.toNat > s.cfg.eb.toNat ∧ s.cfg.eb.toNat > s.cfg.ec.toNat ∧
      1 ≤ s.cfg.ec.toNat)) ∧
  NoProperFactor (redPoly s.cfg) ∧
  s.cfg.a.toNat < 2 ^ s.cfg.deg ∧ s.cfg.b.toNat < 2 ^ s.cfg.deg ∧ s.cfg.b.toNat ≠ 0

/-- CFGCHK, whole: CFGV is set for a legal configuration; for any other, CFGV and BRKV are cleared with
InvalidCurveParameters (R252). -/
def Obligations.CfgchkRule : Prop :=
  encode .cfgchk = 0x01000000#32 ∧
  ∀ s : State,
    (ConfigurationLegal s →
      ∃ t, exec .cfgchk s = .next t ∧ EndsWith .none t ∧ KeepsShared s t ∧ KeepsFlags s t ∧ KeepsSession s t ∧
        t.status.cfgv = true ∧ t.status.brkv = s.status.brkv) ∧
    (¬ConfigurationLegal s →
      ∃ t, exec .cfgchk s = .next t ∧ EndsWith .invalidCurveParameters t ∧ KeepsShared s t ∧ KeepsFlags s t ∧
        KeepsSession s t ∧ t.status.cfgv = false ∧ t.status.brkv = false)

/-- Rabin's test decides what R252 means by irreducible, for every polynomial of degree m ≥ 2. The test is the model's
choice (log 10). -/
def Obligations.RabinDecidesIrreducible : Prop :=
  ∀ f m : Nat, 2 ≤ m → deg f = m → (rabin f m = true ↔ NoProperFactor f)

/-- ZEROIZE, whole: F, WIDE and S are 0, every P is O, FLAG and SEL are 0; configuration, table, CFGV, BRKV, CTRL and
LOST stay; it needs no CFGV (R255). -/
def Obligations.ZeroizeRule : Prop :=
  encode .zeroize = 0x02000000#32 ∧
  ∀ s : State, ∃ t, exec .zeroize s = .next t ∧ EndsWith .none t ∧ KeepsShared s t ∧ KeepsValidity s t ∧
    (∀ i, t.fReg i = 0) ∧ t.wide = 0 ∧ (∀ k, t.sReg k = 0) ∧
    (∀ j, (t.pReg j).inf = true ∧ (t.pReg j).x = 0 ∧ (t.pReg j).y = 0) ∧
    t.status.flag = false ∧ t.status.sel = false

/-! ### The host's bus (20_memory.md) -/

/-- The next input is a 32-bit access of this kind to the word. -/
def NextAccess (s : State) (l : Loc) (k : AccessKind) (rest : List Event) : Prop :=
  s.inbox = .access ⟨s.params.base + l.offset, 32, k⟩ :: rest

/-- The map of R85: an offset names a word exactly if the build implements it and it is the word's offset; offsets are
multiples of 4 inside the aperture. -/
def Obligations.ApertureMap : Prop :=
  ∀ (p : Params) (l : Loc),
    (∀ off, locate p off = some l ↔ l.implemented p = true ∧ off = l.offset) ∧
    (l.implemented p = true → l.offset % 4 = 0 ∧ l.offset < 0x20000)

/-- A CMD write while BUSY = 0 accepts the word in one step: CMD <- v, BUSY <- 1, DONE <- 0, ERR <- 0, whatever the word
is; nothing else of the unit changes (R91). -/
def Obligations.CmdWriteIsAccepted : Prop :=
  ∀ (s : State) (v : Word) (rest : List Event), s.status.busy = false → NextAccess s .cmd (.write v) rest →
    step s = .next { s with
      cmd := v
      status := { s.status with busy := true, done := false, err := .none }
      inbox := rest
      answer := .written }

/-- While BUSY = 1 a write to any word but CTRL and STATUS is dropped and sets LOST; writes to CTRL and STATUS take
effect normally (R92). That a PARAM write is among the dropped ones is the model's reading (log 18). -/
def Obligations.BusyWriteIsDropped : Prop :=
  ∀ (s : State) (l : Loc) (v : Word) (rest : List Event), s.status.busy = true → l.implemented s.params = true →
    NextAccess s l (.write v) rest →
    (l ≠ .ctrl → l ≠ .status →
      step s = .next { s with status := { s.status with lost := true }, inbox := rest, answer := .written }) ∧
    (l = .ctrl → step s = .next { s with ie := v.getLsbD 0, inbox := rest, answer := .written }) ∧
    (l = .status → step s = .next { s with
      status := { s.status with
        done := s.status.done && !v.getLsbD 1
        lost := s.status.lost && !v.getLsbD 2 }
      inbox := rest
      answer := .written })

/-- A read changes no state of the unit; with BUSY = 0 it is answered with the word's value (R88). The answer and the
count of draws are the model's own fields (log 6, log 17). -/
def Obligations.ReadsChangeNothing : Prop :=
  ∀ (s : State) (l : Loc) (rest : List Event), l.implemented s.params = true → NextAccess s l .read rest →
    (∃ v n, step s = .next { s with inbox := rest, answer := .data v, draw := n }) ∧
    (s.status.busy = false → step s = .next { s with inbox := rest, answer := .data (s.readLoc l) })

/-- During BUSY a read of PARAM, CTRL, CMD or a configuration word returns its value, and a read of STATUS returns BUSY,
DONE, LOST, ERR and the reserved bits as they are (R93); the other words are free (log 6). -/
def Obligations.BusyReadsOfControlWords : Prop :=
  ∀ (s : State) (l : Loc) (rest : List Event), s.Inv → s.status.busy = true → l.implemented s.params = true →
    NextAccess s l .read rest → l.anyWhenBusy = false →
    ∃ t v, step s = .next t ∧ t.answer = .data v ∧
      (l ≠ .status → v = s.readLoc l) ∧
      (l = .status → v &&& 0xFFFFFF87#32 = s.status.word &&& 0xFFFFFF87#32 ∧
        v.getLsbD 0 = true ∧ v.getLsbD 1 = false ∧ v.getLsbD 2 = s.status.lost ∧ v.extractLsb' 8 4 = 0#4)

/-- An access in the aperture that is not 32 bits wide, not at a multiple of 4, or at an offset no implemented word has,
is a bus error and gives no next state (R82, R86). -/
def Obligations.RejectedAccessIsBusError : Prop :=
  ∀ (s : State) (off width : Nat) (k : AccessKind) (rest : List Event), off < 0x20000 →
    s.inbox = .access ⟨s.params.base + off, width, k⟩ :: rest →
    (width ≠ 32 ∨ off % 4 ≠ 0 ∨ ∀ l : Loc, l.implemented s.params = true → l.offset ≠ off) →
    step s = .fault .busError

/-- The bits of a word that a host write stores; the others read as zero and ignore writes (R37, R45 to R48, R51, R87).
STATUS and CMD, whose writes do not store, and PARAM, which is read-only, have none. -/
def storedBits (p : Params) : Loc → Word
  | .param => 0
  | .ctrl => 1
  | .status => 0
  | .cmd => 0
  | .cfgM => 0x0000FFFF
  | .cfgEA => 0x0000FFFF
  | .cfgEB => 0x0000FFFF
  | .cfgEC => 0x0000FFFF
  | .cfgW => 0x0000000F
  | .cfgL => 0x0000FFFF
  | .pinf => BitVec.ofNat 32 (2 ^ p.np - 1)
  | .cfgA _ | .cfgB _ | .cfgGX _ | .cfgGY _ | .f _ _ | .wide _ | .pX _ _ | .pY _ _ | .s _ _ | .tX _ _ | .tY _ _ =>
    0xFFFFFFFF

/-- A write with BUSY = 0 to a word that stores is read back in its stored bits, and every other word but STATUS reads as
before (R84, R87, R90). -/
def Obligations.WrittenWordIsReadBack : Prop :=
  ∀ (s : State) (l : Loc) (v : Word) (rest : List Event), s.status.busy = false → l.implemented s.params = true →
    l ≠ .param → l ≠ .status → l ≠ .cmd → NextAccess s l (.write v) rest →
    ∃ t, step s = .next t ∧ t.readLoc l = v &&& storedBits s.params l ∧
      (∀ l', l'.implemented s.params = true → l' ≠ l → l' ≠ .status → t.readLoc l' = s.readLoc l') ∧
      t.status.busy = false ∧ t.status.done = s.status.done ∧ t.status.lost = s.status.lost ∧
      t.status.flag = s.status.flag ∧ t.status.sel = s.status.sel ∧ t.status.err = s.status.err

/-- The words whose write clears CFGV and BRKV (R52, R89). -/
def clearsBoth : Loc → Bool
  | .cfgM | .cfgEA | .cfgEB | .cfgEC | .cfgA _ | .cfgB _ => true
  | .param | .ctrl | .status | .cmd | .cfgW | .cfgL | .pinf | .cfgGX _ | .cfgGY _ | .f _ _ | .wide _ | .pX _ _
  | .pY _ _ | .s _ _ | .tX _ _ | .tY _ _ => false

/-- The words whose write clears BRKV alone (R53, R89). -/
def clearsBrick : Loc → Bool
  | .cfgW | .cfgL | .cfgGX _ | .cfgGY _ | .tX _ _ | .tY _ _ => true
  | .param | .ctrl | .status | .cmd | .cfgM | .cfgEA | .cfgEB | .cfgEC | .cfgA _ | .cfgB _ | .pinf | .f _ _
  | .wide _ | .pX _ _ | .pY _ _ | .s _ _ => false

/-- A write that is not dropped clears the validity bits R89 names, even when it stores the value already held, and no
other write touches them (R52, R53, R89). -/
def Obligations.WritesClearValidity : Prop :=
  ∀ (s : State) (l : Loc) (v : Word) (rest : List Event), s.status.busy = false → l.implemented s.params = true →
    NextAccess s l (.write v) rest →
    ∃ t, step s = .next t ∧
      (clearsBoth l = true → t.status.cfgv = false ∧ t.status.brkv = false) ∧
      (clearsBrick l = true → t.status.cfgv = s.status.cfgv ∧ t.status.brkv = false) ∧
      (clearsBoth l = false → clearsBrick l = false → KeepsValidity s t)

/-! ### STATUS, PARAM, the interrupt and reset -/

/-- The word a STATUS read returns, bit by bit, and what a STATUS write does: a 1 clears DONE or LOST, every other bit is
ignored (R42). -/
def Obligations.StatusWordAndWrite : Prop :=
  (∀ t : Status,
    t.word.getLsbD 0 = t.busy ∧ t.word.getLsbD 1 = t.done ∧ t.word.getLsbD 2 = t.lost ∧
    t.word.getLsbD 3 = t.flag ∧ t.word.getLsbD 4 = t.sel ∧ t.word.getLsbD 5 = t.cfgv ∧
    t.word.getLsbD 6 = t.brkv ∧ t.word.getLsbD 7 = false ∧ t.word.extractLsb' 8 4 = t.err.code ∧
    t.word.extractLsb' 12 20 = 0#20) ∧
  (∀ (s : State) (v : Word) (rest : List Event), NextAccess s .status (.write v) rest →
    step s = .next { s with
      status := { s.status with
        done := s.status.done && !v.getLsbD 1
        lost := s.status.lost && !v.getLsbD 2 }
      inbox := rest
      answer := .written })

/-- PARAM reports the parameters in the fields of R44, no step changes them, and a write to PARAM with BUSY = 0 is
ignored: it leaves every field of the unit as it was (R44, R87). The inbox and the answer are the model's own fields
(log 1, log 17); a PARAM write with BUSY = 1 is in BusyWriteIsDropped. -/
def Obligations.ParamWordIsConstant : Prop :=
  (∀ p : Params,
    ((paramWord p).extractLsb' 0 12).toNat = p.mmax ∧ ((paramWord p).extractLsb' 12 4).toNat = p.wmax ∧
    ((paramWord p).extractLsb' 16 4).toNat = p.nf - 1 ∧ ((paramWord p).extractLsb' 20 3).toNat = p.np - 1 ∧
    (paramWord p).getLsbD 23 = false ∧ ((paramWord p).extractLsb' 24 4).toNat = p.ns - 1 ∧
    (paramWord p).extractLsb' 28 4 = 1#4) ∧
  (∀ s t : State, step s = .next t → t.params = s.params ∧ t.readLoc .param = s.readLoc .param) ∧
  ∀ (s : State) (v : Word) (rest : List Event), s.status.busy = false → NextAccess s .param (.write v) rest →
    step s = .next { s with inbox := rest, answer := .written }

/-- The events of R277: W1C of DONE, acceptance, IE <- 0 and reset deassert the interrupt, IE <- 0 leaves DONE set, and
IE <- 1 with DONE = 1 asserts it at once; every completion with IE = 1 asserts it, that of an illegal word too
(R276). -/
def Obligations.InterruptOutput : Prop :=
  (∀ s : State, s.irq = (s.status.done && s.ie)) ∧
  (∀ (i : Instr) (s t : State), exec i s = .next t → s.ie = true → t.irq = true) ∧
  (∀ (s : State) (rest : List Event), s.status.busy = true → s.ie = true → s.inbox = .engine :: rest →
    ∃ t, step s = .next t ∧ t.irq = true) ∧
  (∀ (s : State) (v : Word) (rest : List Event),
    (NextAccess s .status (.write v) rest → v.getLsbD 1 = true → ∃ t, step s = .next t ∧ t.irq = false) ∧
    (NextAccess s .cmd (.write v) rest → s.status.busy = false → ∃ t, step s = .next t ∧ t.irq = false) ∧
    (NextAccess s .ctrl (.write v) rest → v.getLsbD 0 = false →
      ∃ t, step s = .next t ∧ t.irq = false ∧ t.status.done = s.status.done) ∧
    (NextAccess s .ctrl (.write v) rest → v.getLsbD 0 = true → s.status.done = true →
      ∃ t, step s = .next t ∧ t.irq = true) ∧
    (s.inbox = .reset :: rest → ∃ t, step s = .next t ∧ t.irq = false))

/-- Reset, also during BUSY, gives every piece of state its value of R60; of the table nothing is said (R310). -/
def Obligations.ResetValues : Prop :=
  ∀ (s : State) (rest : List Event), s.inbox = .reset :: rest →
    ∃ t, step s = .next t ∧ t.params = s.params ∧ t.ie = false ∧ t.status.word = 0#32 ∧ t.cmd = 0#32 ∧
      t.cfg.m = 0 ∧ t.cfg.ea = 0 ∧ t.cfg.eb = 0 ∧ t.cfg.ec = 0 ∧ t.cfg.w = 0 ∧ t.cfg.l = 0 ∧
      t.cfg.a = 0 ∧ t.cfg.b = 0 ∧ t.cfg.gx = 0 ∧ t.cfg.gy = 0 ∧
      (∀ i, t.fReg i = 0) ∧ t.wide = 0 ∧ (∀ k, t.sReg k = 0) ∧
      (∀ j, (t.pReg j).inf = true ∧ (t.pReg j).x = 0 ∧ (t.pReg j).y = 0) ∧
      t.pinfWord = BitVec.ofNat 32 (2 ^ s.params.np - 1) ∧ t.irq = false

/-- A command in flight completes: if the pending inputs are accesses the unit admits, engine turns and resets, then
after at most one step more than there are inputs the unit is not busy (R272: the time is finite for every command). The
schedule is the model's (log 1, log 16). -/
def Obligations.BusyEnds : Prop :=
  ∀ s : State, s.status.busy = true → (∀ e ∈ s.inbox, e.Admitted s.params) →
    ∃ n t, n ≤ s.inbox.length + 1 ∧ Host.Core.run Sys2Proof.core n s = .next t ∧ t.status.busy = false

/-- The engine's turn completes whatever word is in flight, legal or not: BUSY is 0, DONE is 1 and the interrupt is as IE
says (R270, R272, R276), in both forms of the turn (the model's choice, log 1 and log 16). -/
def Obligations.EveryTurnCompletes : Prop :=
  ∀ (s : State) (rest : List Event), s.status.busy = true → (s.inbox = [] ∨ s.inbox = .engine :: rest) →
    ∃ t, step s = .next t ∧ t.status.busy = false ∧ t.status.done = true ∧ t.irq = s.ie ∧ t.cmd = s.cmd ∧
      t.inbox = s.inbox.tail
end

