-- ==== Sys2Proof/Laws/State.lean ====
section
/-! SUPPORT. One lemma per field of State per update, each true by rfl, so that no later proof unfolds an update. -/

namespace Sys2Proof.Machine

variable (s : State)

@[simp] theorem State.setFReg_params (i : Nat) (v : Elem) : (s.setFReg i v).params = s.params := rfl
@[simp] theorem State.setFReg_ie (i : Nat) (v : Elem) : (s.setFReg i v).ie = s.ie := rfl
@[simp] theorem State.setFReg_status (i : Nat) (v : Elem) : (s.setFReg i v).status = s.status := rfl
@[simp] theorem State.setFReg_cmd (i : Nat) (v : Elem) : (s.setFReg i v).cmd = s.cmd := rfl
@[simp] theorem State.setFReg_cfg (i : Nat) (v : Elem) : (s.setFReg i v).cfg = s.cfg := rfl
@[simp] theorem State.setFReg_fregs (i : Nat) (v : Elem) : (s.setFReg i v).fregs = s.fregs.setIfInBounds i v := rfl
@[simp] theorem State.setFReg_wide (i : Nat) (v : Elem) : (s.setFReg i v).wide = s.wide := rfl
@[simp] theorem State.setFReg_pregs (i : Nat) (v : Elem) : (s.setFReg i v).pregs = s.pregs := rfl
@[simp] theorem State.setFReg_sregs (i : Nat) (v : Elem) : (s.setFReg i v).sregs = s.sregs := rfl
@[simp] theorem State.setFReg_table (i : Nat) (v : Elem) : (s.setFReg i v).table = s.table := rfl
@[simp] theorem State.setFReg_draw (i : Nat) (v : Elem) : (s.setFReg i v).draw = s.draw := rfl
@[simp] theorem State.setFReg_inbox (i : Nat) (v : Elem) : (s.setFReg i v).inbox = s.inbox := rfl
@[simp] theorem State.setFReg_answer (i : Nat) (v : Elem) : (s.setFReg i v).answer = s.answer := rfl

@[simp] theorem State.setWide_params (v : WideElem) : (s.setWide v).params = s.params := rfl
@[simp] theorem State.setWide_ie (v : WideElem) : (s.setWide v).ie = s.ie := rfl
@[simp] theorem State.setWide_status (v : WideElem) : (s.setWide v).status = s.status := rfl
@[simp] theorem State.setWide_cmd (v : WideElem) : (s.setWide v).cmd = s.cmd := rfl
@[simp] theorem State.setWide_cfg (v : WideElem) : (s.setWide v).cfg = s.cfg := rfl
@[simp] theorem State.setWide_fregs (v : WideElem) : (s.setWide v).fregs = s.fregs := rfl
@[simp] theorem State.setWide_wide (v : WideElem) : (s.setWide v).wide = v := rfl
@[simp] theorem State.setWide_pregs (v : WideElem) : (s.setWide v).pregs = s.pregs := rfl
@[simp] theorem State.setWide_sregs (v : WideElem) : (s.setWide v).sregs = s.sregs := rfl
@[simp] theorem State.setWide_table (v : WideElem) : (s.setWide v).table = s.table := rfl
@[simp] theorem State.setWide_draw (v : WideElem) : (s.setWide v).draw = s.draw := rfl
@[simp] theorem State.setWide_inbox (v : WideElem) : (s.setWide v).inbox = s.inbox := rfl
@[simp] theorem State.setWide_answer (v : WideElem) : (s.setWide v).answer = s.answer := rfl

@[simp] theorem State.setPReg_params (i : Nat) (v : PointReg) : (s.setPReg i v).params = s.params := rfl
@[simp] theorem State.setPReg_ie (i : Nat) (v : PointReg) : (s.setPReg i v).ie = s.ie := rfl
@[simp] theorem State.setPReg_status (i : Nat) (v : PointReg) : (s.setPReg i v).status = s.status := rfl
@[simp] theorem State.setPReg_cmd (i : Nat) (v : PointReg) : (s.setPReg i v).cmd = s.cmd := rfl
@[simp] theorem State.setPReg_cfg (i : Nat) (v : PointReg) : (s.setPReg i v).cfg = s.cfg := rfl
@[simp] theorem State.setPReg_fregs (i : Nat) (v : PointReg) : (s.setPReg i v).fregs = s.fregs := rfl
@[simp] theorem State.setPReg_wide (i : Nat) (v : PointReg) : (s.setPReg i v).wide = s.wide := rfl
@[simp] theorem State.setPReg_pregs (i : Nat) (v : PointReg) : (s.setPReg i v).pregs = s.pregs.setIfInBounds i v := rfl
@[simp] theorem State.setPReg_sregs (i : Nat) (v : PointReg) : (s.setPReg i v).sregs = s.sregs := rfl
@[simp] theorem State.setPReg_table (i : Nat) (v : PointReg) : (s.setPReg i v).table = s.table := rfl
@[simp] theorem State.setPReg_draw (i : Nat) (v : PointReg) : (s.setPReg i v).draw = s.draw := rfl
@[simp] theorem State.setPReg_inbox (i : Nat) (v : PointReg) : (s.setPReg i v).inbox = s.inbox := rfl
@[simp] theorem State.setPReg_answer (i : Nat) (v : PointReg) : (s.setPReg i v).answer = s.answer := rfl

@[simp] theorem State.setSReg_params (i : Nat) (v : Elem) : (s.setSReg i v).params = s.params := rfl
@[simp] theorem State.setSReg_ie (i : Nat) (v : Elem) : (s.setSReg i v).ie = s.ie := rfl
@[simp] theorem State.setSReg_status (i : Nat) (v : Elem) : (s.setSReg i v).status = s.status := rfl
@[simp] theorem State.setSReg_cmd (i : Nat) (v : Elem) : (s.setSReg i v).cmd = s.cmd := rfl
@[simp] theorem State.setSReg_cfg (i : Nat) (v : Elem) : (s.setSReg i v).cfg = s.cfg := rfl
@[simp] theorem State.setSReg_fregs (i : Nat) (v : Elem) : (s.setSReg i v).fregs = s.fregs := rfl
@[simp] theorem State.setSReg_wide (i : Nat) (v : Elem) : (s.setSReg i v).wide = s.wide := rfl
@[simp] theorem State.setSReg_pregs (i : Nat) (v : Elem) : (s.setSReg i v).pregs = s.pregs := rfl
@[simp] theorem State.setSReg_sregs (i : Nat) (v : Elem) : (s.setSReg i v).sregs = s.sregs.setIfInBounds i v := rfl
@[simp] theorem State.setSReg_table (i : Nat) (v : Elem) : (s.setSReg i v).table = s.table := rfl
@[simp] theorem State.setSReg_draw (i : Nat) (v : Elem) : (s.setSReg i v).draw = s.draw := rfl
@[simp] theorem State.setSReg_inbox (i : Nat) (v : Elem) : (s.setSReg i v).inbox = s.inbox := rfl
@[simp] theorem State.setSReg_answer (i : Nat) (v : Elem) : (s.setSReg i v).answer = s.answer := rfl

@[simp] theorem State.setTEntry_params (i : Nat) (v : TableEntry) : (s.setTEntry i v).params = s.params := rfl
@[simp] theorem State.setTEntry_ie (i : Nat) (v : TableEntry) : (s.setTEntry i v).ie = s.ie := rfl
@[simp] theorem State.setTEntry_status (i : Nat) (v : TableEntry) : (s.setTEntry i v).status = s.status := rfl
@[simp] theorem State.setTEntry_cmd (i : Nat) (v : TableEntry) : (s.setTEntry i v).cmd = s.cmd := rfl
@[simp] theorem State.setTEntry_cfg (i : Nat) (v : TableEntry) : (s.setTEntry i v).cfg = s.cfg := rfl
@[simp] theorem State.setTEntry_fregs (i : Nat) (v : TableEntry) : (s.setTEntry i v).fregs = s.fregs := rfl
@[simp] theorem State.setTEntry_wide (i : Nat) (v : TableEntry) : (s.setTEntry i v).wide = s.wide := rfl
@[simp] theorem State.setTEntry_pregs (i : Nat) (v : TableEntry) : (s.setTEntry i v).pregs = s.pregs := rfl
@[simp] theorem State.setTEntry_sregs (i : Nat) (v : TableEntry) : (s.setTEntry i v).sregs = s.sregs := rfl
@[simp] theorem State.setTEntry_table (i : Nat) (v : TableEntry) : (s.setTEntry i v).table = s.table.setIfInBounds i v := rfl
@[simp] theorem State.setTEntry_draw (i : Nat) (v : TableEntry) : (s.setTEntry i v).draw = s.draw := rfl
@[simp] theorem State.setTEntry_inbox (i : Nat) (v : TableEntry) : (s.setTEntry i v).inbox = s.inbox := rfl
@[simp] theorem State.setTEntry_answer (i : Nat) (v : TableEntry) : (s.setTEntry i v).answer = s.answer := rfl

@[simp] theorem State.writeF_params (i : FReg) (v : Nat) : (s.writeF i v).params = s.params := rfl
@[simp] theorem State.writeF_ie (i : FReg) (v : Nat) : (s.writeF i v).ie = s.ie := rfl
@[simp] theorem State.writeF_status (i : FReg) (v : Nat) : (s.writeF i v).status = s.status := rfl
@[simp] theorem State.writeF_cmd (i : FReg) (v : Nat) : (s.writeF i v).cmd = s.cmd := rfl
@[simp] theorem State.writeF_cfg (i : FReg) (v : Nat) : (s.writeF i v).cfg = s.cfg := rfl
@[simp] theorem State.writeF_fregs (i : FReg) (v : Nat) : (s.writeF i v).fregs = s.fregs.setIfInBounds i.toNat (BitVec.ofNat 1024 v) := rfl
@[simp] theorem State.writeF_wide (i : FReg) (v : Nat) : (s.writeF i v).wide = s.wide := rfl
@[simp] theorem State.writeF_pregs (i : FReg) (v : Nat) : (s.writeF i v).pregs = s.pregs := rfl
@[simp] theorem State.writeF_sregs (i : FReg) (v : Nat) : (s.writeF i v).sregs = s.sregs := rfl
@[simp] theorem State.writeF_table (i : FReg) (v : Nat) : (s.writeF i v).table = s.table := rfl
@[simp] theorem State.writeF_draw (i : FReg) (v : Nat) : (s.writeF i v).draw = s.draw := rfl
@[simp] theorem State.writeF_inbox (i : FReg) (v : Nat) : (s.writeF i v).inbox = s.inbox := rfl
@[simp] theorem State.writeF_answer (i : FReg) (v : Nat) : (s.writeF i v).answer = s.answer := rfl

@[simp] theorem State.writeP_params (i : PReg) (v : Pt) : (s.writeP i v).params = s.params := rfl
@[simp] theorem State.writeP_ie (i : PReg) (v : Pt) : (s.writeP i v).ie = s.ie := rfl
@[simp] theorem State.writeP_status (i : PReg) (v : Pt) : (s.writeP i v).status = s.status := rfl
@[simp] theorem State.writeP_cmd (i : PReg) (v : Pt) : (s.writeP i v).cmd = s.cmd := rfl
@[simp] theorem State.writeP_cfg (i : PReg) (v : Pt) : (s.writeP i v).cfg = s.cfg := rfl
@[simp] theorem State.writeP_fregs (i : PReg) (v : Pt) : (s.writeP i v).fregs = s.fregs := rfl
@[simp] theorem State.writeP_wide (i : PReg) (v : Pt) : (s.writeP i v).wide = s.wide := rfl
@[simp] theorem State.writeP_pregs (i : PReg) (v : Pt) : (s.writeP i v).pregs = s.pregs.setIfInBounds i.toNat (PointReg.ofPt v) := rfl
@[simp] theorem State.writeP_sregs (i : PReg) (v : Pt) : (s.writeP i v).sregs = s.sregs := rfl
@[simp] theorem State.writeP_table (i : PReg) (v : Pt) : (s.writeP i v).table = s.table := rfl
@[simp] theorem State.writeP_draw (i : PReg) (v : Pt) : (s.writeP i v).draw = s.draw := rfl
@[simp] theorem State.writeP_inbox (i : PReg) (v : Pt) : (s.writeP i v).inbox = s.inbox := rfl
@[simp] theorem State.writeP_answer (i : PReg) (v : Pt) : (s.writeP i v).answer = s.answer := rfl

@[simp] theorem State.writeWide_params (v : Nat) : (s.writeWide v).params = s.params := rfl
@[simp] theorem State.writeWide_ie (v : Nat) : (s.writeWide v).ie = s.ie := rfl
@[simp] theorem State.writeWide_status (v : Nat) : (s.writeWide v).status = s.status := rfl
@[simp] theorem State.writeWide_cmd (v : Nat) : (s.writeWide v).cmd = s.cmd := rfl
@[simp] theorem State.writeWide_cfg (v : Nat) : (s.writeWide v).cfg = s.cfg := rfl
@[simp] theorem State.writeWide_fregs (v : Nat) : (s.writeWide v).fregs = s.fregs := rfl
@[simp] theorem State.writeWide_wide (v : Nat) : (s.writeWide v).wide = BitVec.ofNat 2048 v := rfl
@[simp] theorem State.writeWide_pregs (v : Nat) : (s.writeWide v).pregs = s.pregs := rfl
@[simp] theorem State.writeWide_sregs (v : Nat) : (s.writeWide v).sregs = s.sregs := rfl
@[simp] theorem State.writeWide_table (v : Nat) : (s.writeWide v).table = s.table := rfl
@[simp] theorem State.writeWide_draw (v : Nat) : (s.writeWide v).draw = s.draw := rfl
@[simp] theorem State.writeWide_inbox (v : Nat) : (s.writeWide v).inbox = s.inbox := rfl
@[simp] theorem State.writeWide_answer (v : Nat) : (s.writeWide v).answer = s.answer := rfl

@[simp] theorem State.setFlag_params (b : Bool) : (s.setFlag b).params = s.params := rfl
@[simp] theorem State.setFlag_ie (b : Bool) : (s.setFlag b).ie = s.ie := rfl
@[simp] theorem State.setFlag_busy (b : Bool) : (s.setFlag b).status.busy = s.status.busy := rfl
@[simp] theorem State.setFlag_done (b : Bool) : (s.setFlag b).status.done = s.status.done := rfl
@[simp] theorem State.setFlag_lost (b : Bool) : (s.setFlag b).status.lost = s.status.lost := rfl
@[simp] theorem State.setFlag_flag (b : Bool) : (s.setFlag b).status.flag = b := rfl
@[simp] theorem State.setFlag_sel (b : Bool) : (s.setFlag b).status.sel = s.status.sel := rfl
@[simp] theorem State.setFlag_cfgv (b : Bool) : (s.setFlag b).status.cfgv = s.status.cfgv := rfl
@[simp] theorem State.setFlag_brkv (b : Bool) : (s.setFlag b).status.brkv = s.status.brkv := rfl
@[simp] theorem State.setFlag_err (b : Bool) : (s.setFlag b).status.err = s.status.err := rfl
@[simp] theorem State.setFlag_cmd (b : Bool) : (s.setFlag b).cmd = s.cmd := rfl
@[simp] theorem State.setFlag_cfg (b : Bool) : (s.setFlag b).cfg = s.cfg := rfl
@[simp] theorem State.setFlag_fregs (b : Bool) : (s.setFlag b).fregs = s.fregs := rfl
@[simp] theorem State.setFlag_wide (b : Bool) : (s.setFlag b).wide = s.wide := rfl
@[simp] theorem State.setFlag_pregs (b : Bool) : (s.setFlag b).pregs = s.pregs := rfl
@[simp] theorem State.setFlag_sregs (b : Bool) : (s.setFlag b).sregs = s.sregs := rfl
@[simp] theorem State.setFlag_table (b : Bool) : (s.setFlag b).table = s.table := rfl
@[simp] theorem State.setFlag_draw (b : Bool) : (s.setFlag b).draw = s.draw := rfl
@[simp] theorem State.setFlag_inbox (b : Bool) : (s.setFlag b).inbox = s.inbox := rfl
@[simp] theorem State.setFlag_answer (b : Bool) : (s.setFlag b).answer = s.answer := rfl

@[simp] theorem State.setSel_params (b : Bool) : (s.setSel b).params = s.params := rfl
@[simp] theorem State.setSel_ie (b : Bool) : (s.setSel b).ie = s.ie := rfl
@[simp] theorem State.setSel_busy (b : Bool) : (s.setSel b).status.busy = s.status.busy := rfl
@[simp] theorem State.setSel_done (b : Bool) : (s.setSel b).status.done = s.status.done := rfl
@[simp] theorem State.setSel_lost (b : Bool) : (s.setSel b).status.lost = s.status.lost := rfl
@[simp] theorem State.setSel_flag (b : Bool) : (s.setSel b).status.flag = s.status.flag := rfl
@[simp] theorem State.setSel_sel (b : Bool) : (s.setSel b).status.sel = b := rfl
@[simp] theorem State.setSel_cfgv (b : Bool) : (s.setSel b).status.cfgv = s.status.cfgv := rfl
@[simp] theorem State.setSel_brkv (b : Bool) : (s.setSel b).status.brkv = s.status.brkv := rfl
@[simp] theorem State.setSel_err (b : Bool) : (s.setSel b).status.err = s.status.err := rfl
@[simp] theorem State.setSel_cmd (b : Bool) : (s.setSel b).cmd = s.cmd := rfl
@[simp] theorem State.setSel_cfg (b : Bool) : (s.setSel b).cfg = s.cfg := rfl
@[simp] theorem State.setSel_fregs (b : Bool) : (s.setSel b).fregs = s.fregs := rfl
@[simp] theorem State.setSel_wide (b : Bool) : (s.setSel b).wide = s.wide := rfl
@[simp] theorem State.setSel_pregs (b : Bool) : (s.setSel b).pregs = s.pregs := rfl
@[simp] theorem State.setSel_sregs (b : Bool) : (s.setSel b).sregs = s.sregs := rfl
@[simp] theorem State.setSel_table (b : Bool) : (s.setSel b).table = s.table := rfl
@[simp] theorem State.setSel_draw (b : Bool) : (s.setSel b).draw = s.draw := rfl
@[simp] theorem State.setSel_inbox (b : Bool) : (s.setSel b).inbox = s.inbox := rfl
@[simp] theorem State.setSel_answer (b : Bool) : (s.setSel b).answer = s.answer := rfl

@[simp] theorem State.setCfgv_params (b : Bool) : (s.setCfgv b).params = s.params := rfl
@[simp] theorem State.setCfgv_ie (b : Bool) : (s.setCfgv b).ie = s.ie := rfl
@[simp] theorem State.setCfgv_busy (b : Bool) : (s.setCfgv b).status.busy = s.status.busy := rfl
@[simp] theorem State.setCfgv_done (b : Bool) : (s.setCfgv b).status.done = s.status.done := rfl
@[simp] theorem State.setCfgv_lost (b : Bool) : (s.setCfgv b).status.lost = s.status.lost := rfl
@[simp] theorem State.setCfgv_flag (b : Bool) : (s.setCfgv b).status.flag = s.status.flag := rfl
@[simp] theorem State.setCfgv_sel (b : Bool) : (s.setCfgv b).status.sel = s.status.sel := rfl
@[simp] theorem State.setCfgv_cfgv (b : Bool) : (s.setCfgv b).status.cfgv = b := rfl
@[simp] theorem State.setCfgv_brkv (b : Bool) : (s.setCfgv b).status.brkv = s.status.brkv := rfl
@[simp] theorem State.setCfgv_err (b : Bool) : (s.setCfgv b).status.err = s.status.err := rfl
@[simp] theorem State.setCfgv_cmd (b : Bool) : (s.setCfgv b).cmd = s.cmd := rfl
@[simp] theorem State.setCfgv_cfg (b : Bool) : (s.setCfgv b).cfg = s.cfg := rfl
@[simp] theorem State.setCfgv_fregs (b : Bool) : (s.setCfgv b).fregs = s.fregs := rfl
@[simp] theorem State.setCfgv_wide (b : Bool) : (s.setCfgv b).wide = s.wide := rfl
@[simp] theorem State.setCfgv_pregs (b : Bool) : (s.setCfgv b).pregs = s.pregs := rfl
@[simp] theorem State.setCfgv_sregs (b : Bool) : (s.setCfgv b).sregs = s.sregs := rfl
@[simp] theorem State.setCfgv_table (b : Bool) : (s.setCfgv b).table = s.table := rfl
@[simp] theorem State.setCfgv_draw (b : Bool) : (s.setCfgv b).draw = s.draw := rfl
@[simp] theorem State.setCfgv_inbox (b : Bool) : (s.setCfgv b).inbox = s.inbox := rfl
@[simp] theorem State.setCfgv_answer (b : Bool) : (s.setCfgv b).answer = s.answer := rfl

@[simp] theorem State.setBrkv_params (b : Bool) : (s.setBrkv b).params = s.params := rfl
@[simp] theorem State.setBrkv_ie (b : Bool) : (s.setBrkv b).ie = s.ie := rfl
@[simp] theorem State.setBrkv_busy (b : Bool) : (s.setBrkv b).status.busy = s.status.busy := rfl
@[simp] theorem State.setBrkv_done (b : Bool) : (s.setBrkv b).status.done = s.status.done := rfl
@[simp] theorem State.setBrkv_lost (b : Bool) : (s.setBrkv b).status.lost = s.status.lost := rfl
@[simp] theorem State.setBrkv_flag (b : Bool) : (s.setBrkv b).status.flag = s.status.flag := rfl
@[simp] theorem State.setBrkv_sel (b : Bool) : (s.setBrkv b).status.sel = s.status.sel := rfl
@[simp] theorem State.setBrkv_cfgv (b : Bool) : (s.setBrkv b).status.cfgv = s.status.cfgv := rfl
@[simp] theorem State.setBrkv_brkv (b : Bool) : (s.setBrkv b).status.brkv = b := rfl
@[simp] theorem State.setBrkv_err (b : Bool) : (s.setBrkv b).status.err = s.status.err := rfl
@[simp] theorem State.setBrkv_cmd (b : Bool) : (s.setBrkv b).cmd = s.cmd := rfl
@[simp] theorem State.setBrkv_cfg (b : Bool) : (s.setBrkv b).cfg = s.cfg := rfl
@[simp] theorem State.setBrkv_fregs (b : Bool) : (s.setBrkv b).fregs = s.fregs := rfl
@[simp] theorem State.setBrkv_wide (b : Bool) : (s.setBrkv b).wide = s.wide := rfl
@[simp] theorem State.setBrkv_pregs (b : Bool) : (s.setBrkv b).pregs = s.pregs := rfl
@[simp] theorem State.setBrkv_sregs (b : Bool) : (s.setBrkv b).sregs = s.sregs := rfl
@[simp] theorem State.setBrkv_table (b : Bool) : (s.setBrkv b).table = s.table := rfl
@[simp] theorem State.setBrkv_draw (b : Bool) : (s.setBrkv b).draw = s.draw := rfl
@[simp] theorem State.setBrkv_inbox (b : Bool) : (s.setBrkv b).inbox = s.inbox := rfl
@[simp] theorem State.setBrkv_answer (b : Bool) : (s.setBrkv b).answer = s.answer := rfl

@[simp] theorem State.invalidate_params : (s.invalidate).params = s.params := rfl
@[simp] theorem State.invalidate_ie : (s.invalidate).ie = s.ie := rfl
@[simp] theorem State.invalidate_busy : (s.invalidate).status.busy = s.status.busy := rfl
@[simp] theorem State.invalidate_done : (s.invalidate).status.done = s.status.done := rfl
@[simp] theorem State.invalidate_lost : (s.invalidate).status.lost = s.status.lost := rfl
@[simp] theorem State.invalidate_flag : (s.invalidate).status.flag = s.status.flag := rfl
@[simp] theorem State.invalidate_sel : (s.invalidate).status.sel = s.status.sel := rfl
@[simp] theorem State.invalidate_cfgv : (s.invalidate).status.cfgv = false := rfl
@[simp] theorem State.invalidate_brkv : (s.invalidate).status.brkv = false := rfl
@[simp] theorem State.invalidate_err : (s.invalidate).status.err = s.status.err := rfl
@[simp] theorem State.invalidate_cmd : (s.invalidate).cmd = s.cmd := rfl
@[simp] theorem State.invalidate_cfg : (s.invalidate).cfg = s.cfg := rfl
@[simp] theorem State.invalidate_fregs : (s.invalidate).fregs = s.fregs := rfl
@[simp] theorem State.invalidate_wide : (s.invalidate).wide = s.wide := rfl
@[simp] theorem State.invalidate_pregs : (s.invalidate).pregs = s.pregs := rfl
@[simp] theorem State.invalidate_sregs : (s.invalidate).sregs = s.sregs := rfl
@[simp] theorem State.invalidate_table : (s.invalidate).table = s.table := rfl
@[simp] theorem State.invalidate_draw : (s.invalidate).draw = s.draw := rfl
@[simp] theorem State.invalidate_inbox : (s.invalidate).inbox = s.inbox := rfl
@[simp] theorem State.invalidate_answer : (s.invalidate).answer = s.answer := rfl

@[simp] theorem State.writePinf_params (v : Word) : (s.writePinf v).params = s.params := rfl
@[simp] theorem State.writePinf_ie (v : Word) : (s.writePinf v).ie = s.ie := rfl
@[simp] theorem State.writePinf_status (v : Word) : (s.writePinf v).status = s.status := rfl
@[simp] theorem State.writePinf_cmd (v : Word) : (s.writePinf v).cmd = s.cmd := rfl
@[simp] theorem State.writePinf_cfg (v : Word) : (s.writePinf v).cfg = s.cfg := rfl
@[simp] theorem State.writePinf_fregs (v : Word) : (s.writePinf v).fregs = s.fregs := rfl
@[simp] theorem State.writePinf_wide (v : Word) : (s.writePinf v).wide = s.wide := rfl
@[simp] theorem State.writePinf_pregs (v : Word) : (s.writePinf v).pregs = s.pregs.mapIdx fun j r => if j < s.params.np then { r with inf := v.getLsbD j } else r := rfl
@[simp] theorem State.writePinf_sregs (v : Word) : (s.writePinf v).sregs = s.sregs := rfl
@[simp] theorem State.writePinf_table (v : Word) : (s.writePinf v).table = s.table := rfl
@[simp] theorem State.writePinf_draw (v : Word) : (s.writePinf v).draw = s.draw := rfl
@[simp] theorem State.writePinf_inbox (v : Word) : (s.writePinf v).inbox = s.inbox := rfl
@[simp] theorem State.writePinf_answer (v : Word) : (s.writePinf v).answer = s.answer := rfl

@[simp] theorem State.complete_params (e : ErrCode) : (s.complete e).params = s.params := rfl
@[simp] theorem State.complete_ie (e : ErrCode) : (s.complete e).ie = s.ie := rfl
@[simp] theorem State.complete_busy (e : ErrCode) : (s.complete e).status.busy = false := rfl
@[simp] theorem State.complete_done (e : ErrCode) : (s.complete e).status.done = true := rfl
@[simp] theorem State.complete_lost (e : ErrCode) : (s.complete e).status.lost = s.status.lost := rfl
@[simp] theorem State.complete_flag (e : ErrCode) : (s.complete e).status.flag = s.status.flag := rfl
@[simp] theorem State.complete_sel (e : ErrCode) : (s.complete e).status.sel = s.status.sel := rfl
@[simp] theorem State.complete_cfgv (e : ErrCode) : (s.complete e).status.cfgv = s.status.cfgv := rfl
@[simp] theorem State.complete_brkv (e : ErrCode) : (s.complete e).status.brkv = s.status.brkv := rfl
@[simp] theorem State.complete_err (e : ErrCode) : (s.complete e).status.err = e := rfl
@[simp] theorem State.complete_cmd (e : ErrCode) : (s.complete e).cmd = s.cmd := rfl
@[simp] theorem State.complete_cfg (e : ErrCode) : (s.complete e).cfg = s.cfg := rfl
@[simp] theorem State.complete_fregs (e : ErrCode) : (s.complete e).fregs = s.fregs := rfl
@[simp] theorem State.complete_wide (e : ErrCode) : (s.complete e).wide = s.wide := rfl
@[simp] theorem State.complete_pregs (e : ErrCode) : (s.complete e).pregs = s.pregs := rfl
@[simp] theorem State.complete_sregs (e : ErrCode) : (s.complete e).sregs = s.sregs := rfl
@[simp] theorem State.complete_table (e : ErrCode) : (s.complete e).table = s.table := rfl
@[simp] theorem State.complete_draw (e : ErrCode) : (s.complete e).draw = s.draw := rfl
@[simp] theorem State.complete_inbox (e : ErrCode) : (s.complete e).inbox = s.inbox := rfl
@[simp] theorem State.complete_answer (e : ErrCode) : (s.complete e).answer = s.answer := rfl

@[simp] theorem State.accept_params (w : Word) : (s.accept w).params = s.params := rfl
@[simp] theorem State.accept_ie (w : Word) : (s.accept w).ie = s.ie := rfl
@[simp] theorem State.accept_busy (w : Word) : (s.accept w).status.busy = true := rfl
@[simp] theorem State.accept_done (w : Word) : (s.accept w).status.done = false := rfl
@[simp] theorem State.accept_lost (w : Word) : (s.accept w).status.lost = s.status.lost := rfl
@[simp] theorem State.accept_flag (w : Word) : (s.accept w).status.flag = s.status.flag := rfl
@[simp] theorem State.accept_sel (w : Word) : (s.accept w).status.sel = s.status.sel := rfl
@[simp] theorem State.accept_cfgv (w : Word) : (s.accept w).status.cfgv = s.status.cfgv := rfl
@[simp] theorem State.accept_brkv (w : Word) : (s.accept w).status.brkv = s.status.brkv := rfl
@[simp] theorem State.accept_err (w : Word) : (s.accept w).status.err = .none := rfl
@[simp] theorem State.accept_cmd (w : Word) : (s.accept w).cmd = w := rfl
@[simp] theorem State.accept_cfg (w : Word) : (s.accept w).cfg = s.cfg := rfl
@[simp] theorem State.accept_fregs (w : Word) : (s.accept w).fregs = s.fregs := rfl
@[simp] theorem State.accept_wide (w : Word) : (s.accept w).wide = s.wide := rfl
@[simp] theorem State.accept_pregs (w : Word) : (s.accept w).pregs = s.pregs := rfl
@[simp] theorem State.accept_sregs (w : Word) : (s.accept w).sregs = s.sregs := rfl
@[simp] theorem State.accept_table (w : Word) : (s.accept w).table = s.table := rfl
@[simp] theorem State.accept_draw (w : Word) : (s.accept w).draw = s.draw := rfl
@[simp] theorem State.accept_inbox (w : Word) : (s.accept w).inbox = s.inbox := rfl
@[simp] theorem State.accept_answer (w : Word) : (s.accept w).answer = s.answer := rfl

@[simp] theorem State.dropWrite_params : (s.dropWrite).params = s.params := rfl
@[simp] theorem State.dropWrite_ie : (s.dropWrite).ie = s.ie := rfl
@[simp] theorem State.dropWrite_busy : (s.dropWrite).status.busy = s.status.busy := rfl
@[simp] theorem State.dropWrite_done : (s.dropWrite).status.done = s.status.done := rfl
@[simp] theorem State.dropWrite_lost : (s.dropWrite).status.lost = true := rfl
@[simp] theorem State.dropWrite_flag : (s.dropWrite).status.flag = s.status.flag := rfl
@[simp] theorem State.dropWrite_sel : (s.dropWrite).status.sel = s.status.sel := rfl
@[simp] theorem State.dropWrite_cfgv : (s.dropWrite).status.cfgv = s.status.cfgv := rfl
@[simp] theorem State.dropWrite_brkv : (s.dropWrite).status.brkv = s.status.brkv := rfl
@[simp] theorem State.dropWrite_err : (s.dropWrite).status.err = s.status.err := rfl
@[simp] theorem State.dropWrite_cmd : (s.dropWrite).cmd = s.cmd := rfl
@[simp] theorem State.dropWrite_cfg : (s.dropWrite).cfg = s.cfg := rfl
@[simp] theorem State.dropWrite_fregs : (s.dropWrite).fregs = s.fregs := rfl
@[simp] theorem State.dropWrite_wide : (s.dropWrite).wide = s.wide := rfl
@[simp] theorem State.dropWrite_pregs : (s.dropWrite).pregs = s.pregs := rfl
@[simp] theorem State.dropWrite_sregs : (s.dropWrite).sregs = s.sregs := rfl
@[simp] theorem State.dropWrite_table : (s.dropWrite).table = s.table := rfl
@[simp] theorem State.dropWrite_draw : (s.dropWrite).draw = s.draw := rfl
@[simp] theorem State.dropWrite_inbox : (s.dropWrite).inbox = s.inbox := rfl
@[simp] theorem State.dropWrite_answer : (s.dropWrite).answer = s.answer := rfl

@[simp] theorem State.zeroize_params : (s.zeroize).params = s.params := rfl
@[simp] theorem State.zeroize_ie : (s.zeroize).ie = s.ie := rfl
@[simp] theorem State.zeroize_busy : (s.zeroize).status.busy = s.status.busy := rfl
@[simp] theorem State.zeroize_done : (s.zeroize).status.done = s.status.done := rfl
@[simp] theorem State.zeroize_lost : (s.zeroize).status.lost = s.status.lost := rfl
@[simp] theorem State.zeroize_flag : (s.zeroize).status.flag = false := rfl
@[simp] theorem State.zeroize_sel : (s.zeroize).status.sel = false := rfl
@[simp] theorem State.zeroize_cfgv : (s.zeroize).status.cfgv = s.status.cfgv := rfl
@[simp] theorem State.zeroize_brkv : (s.zeroize).status.brkv = s.status.brkv := rfl
@[simp] theorem State.zeroize_err : (s.zeroize).status.err = s.status.err := rfl
@[simp] theorem State.zeroize_cmd : (s.zeroize).cmd = s.cmd := rfl
@[simp] theorem State.zeroize_cfg : (s.zeroize).cfg = s.cfg := rfl
@[simp] theorem State.zeroize_fregs : (s.zeroize).fregs = Vector.replicate 16 0 := rfl
@[simp] theorem State.zeroize_wide : (s.zeroize).wide = 0 := rfl
@[simp] theorem State.zeroize_pregs : (s.zeroize).pregs = Vector.replicate 8 PointReg.infinity := rfl
@[simp] theorem State.zeroize_sregs : (s.zeroize).sregs = Vector.replicate 16 0 := rfl
@[simp] theorem State.zeroize_table : (s.zeroize).table = s.table := rfl
@[simp] theorem State.zeroize_draw : (s.zeroize).draw = s.draw := rfl
@[simp] theorem State.zeroize_inbox : (s.zeroize).inbox = s.inbox := rfl
@[simp] theorem State.zeroize_answer : (s.zeroize).answer = s.answer := rfl

end Sys2Proof.Machine
end

