-- ==== Sys2Proof/Laws/Regs.lean ====
section
/-! SUPPORT. The register files: a read after a write gives the value written, every other register stays. -/

namespace Sys2Proof.Machine

variable (s : State)

theorem RegIdx.toNat_lt_sixteen (i : RegIdx) : i.toNat < 16 := i.isLt

theorem State.fReg_of_fregs_eq {s t : State} (h : t.fregs = s.fregs) (i : Nat) : t.fReg i = s.fReg i := by
  simp [State.fReg, h]

theorem State.pReg_of_pregs_eq {s t : State} (h : t.pregs = s.pregs) (j : Nat) : t.pReg j = s.pReg j := by
  simp [State.pReg, h]

theorem State.sReg_of_sregs_eq {s t : State} (h : t.sregs = s.sregs) (k : Nat) : t.sReg k = s.sReg k := by
  simp [State.sReg, h]

theorem State.tEntry_of_table_eq {s t : State} (h : t.table = s.table) (i : Nat) : t.tEntry i = s.tEntry i := by
  simp [State.tEntry, h]

/-- A read of Fj after a write of Fi, inside the file. -/
theorem State.fReg_setFReg {i : Nat} (hi : i < 16) (j : Nat) (v : Elem) :
    (s.setFReg i v).fReg j = if j = i then v else s.fReg j := by
  by_cases h : j = i
  · subst h; simp [State.fReg, State.setFReg, hi]
  · simp [State.fReg, State.setFReg, h, Ne.symm h]

/-- A read of Pj after a write of Pi, inside the file. -/
theorem State.pReg_setPReg {i : Nat} (hi : i < 8) (j : Nat) (v : PointReg) :
    (s.setPReg i v).pReg j = if j = i then v else s.pReg j := by
  by_cases h : j = i
  · subst h; simp [State.pReg, State.setPReg, hi]
  · simp [State.pReg, State.setPReg, h, Ne.symm h]

/-- A read of Sj after a write of Si, inside the file. -/
theorem State.sReg_setSReg {i : Nat} (hi : i < 16) (j : Nat) (v : Elem) :
    (s.setSReg i v).sReg j = if j = i then v else s.sReg j := by
  by_cases h : j = i
  · subst h; simp [State.sReg, State.setSReg, hi]
  · simp [State.sReg, State.setSReg, h, Ne.symm h]

/-- A read of T[j] after a write of T[i], inside the table. -/
theorem State.tEntry_setTEntry {i : Nat} (hi : i < 256) (j : Nat) (v : TableEntry) :
    (s.setTEntry i v).tEntry j = if j = i then v else s.tEntry j := by
  by_cases h : j = i
  · subst h; simp [State.tEntry, State.setTEntry, hi]
  · simp [State.tEntry, State.setTEntry, h, Ne.symm h]

/-- The field register file after a command's write of Fd. -/
theorem State.fReg_writeF (d : FReg) (v : Nat) (j : Nat) :
    (s.writeF d v).fReg j = if j = d.toNat then BitVec.ofNat 1024 v else s.fReg j :=
  s.fReg_setFReg (RegIdx.toNat_lt_sixteen d) j _

/-- The point register file after a command's write of an implemented Pd. -/
theorem State.pReg_writeP {d : PReg} (hd : s.params.pOk d = true) (v : Pt) (j : Nat) :
    (s.writeP d v).pReg j = if j = d.toNat then PointReg.ofPt v else s.pReg j := by
  have hb := s.params.bounds
  have hd' : d.toNat < s.params.np := by simpa [Params.pOk] using hd
  exact s.pReg_setPReg (by omega) j _

/-- A value that fits its register is read back whole. -/
theorem toNat_ofNat_of_lt {n x : Nat} (h : x < 2 ^ n) : (BitVec.ofNat n x).toNat = x :=
  (BitVec.toNat_ofNat x n).trans (Nat.mod_eq_of_lt h)

@[simp] theorem PointReg.pt_infinity : PointReg.infinity.pt = .O := rfl

/-- Reading back the point value a command writes, for coordinates the register has room for. -/
theorem PointReg.pt_ofPt {v : Pt} (hv : ∀ x y, v = .aff x y → x < 2 ^ 1024 ∧ y < 2 ^ 1024) :
    (PointReg.ofPt v).pt = v := by
  cases v with
  | O => rfl
  | aff x y =>
    obtain ⟨hx, hy⟩ := hv x y rfl
    simp only [PointReg.ofPt, PointReg.pt, toNat_ofNat_of_lt hx, toNat_ofNat_of_lt hy]
    rfl

end Sys2Proof.Machine
end

