-- ==== Sys2Proof/Laws/Bus.lean ====
section
/-! SUPPORT. The words of a multi-word value: a word written is read back, the others stay, and no bit past the
implemented words is set (20_memory.md R84, R90). -/

namespace Sys2Proof.Machine

theorem getLsbD_getWord {n : Nat} (v : BitVec n) (k i : Nat) :
    (getWord v k).getLsbD i = (decide (i < 32) && v.getLsbD (32 * k + i)) := by
  simp [getWord, BitVec.getLsbD_extractLsb']

theorem getLsbD_setWord {n : Nat} (v : BitVec n) (k : Nat) (w : Word) (i : Nat) :
    (setWord v k w).getLsbD i =
      (decide (i < n) && if 32 * k ≤ i ∧ i < 32 * k + 32 then w.getLsbD (i - 32 * k) else v.getLsbD i) := by
  by_cases hn : i < n
  · by_cases hk : 32 * k ≤ i
    · by_cases hh : i < 32 * k + 32
      · have h1 : i - 32 * k < 32 := by omega
        have hones : (4294967295#32).getLsbD (i - 32 * k) = true := by
          have : (4294967295#32) = BitVec.allOnes 32 := rfl
          rw [this, BitVec.getLsbD_allOnes]; simpa using h1
        simp [setWord, hn, hk, hh, Nat.not_lt.mpr hk, hones]
      · have h1 : ¬ i - 32 * k < 32 := by omega
        simp [setWord, hn, hk, hh, Nat.not_lt.mpr hk, BitVec.getLsbD_of_ge _ _ (Nat.not_lt.mp h1)]
    · simp [setWord, hn, hk, Nat.lt_of_not_le hk]
  · simp [hn, BitVec.getLsbD_of_ge _ _ (Nat.not_lt.mp hn)]

/-- A word written is read back (R84). -/
theorem getWord_setWord_self {n : Nat} (v : BitVec n) {k : Nat} (hk : 32 * k + 32 ≤ n) (w : Word) :
    getWord (setWord v k w) k = w := by
  apply BitVec.eq_of_getLsbD_eq
  intro i hi
  rw [getLsbD_getWord, getLsbD_setWord]
  have h1 : 32 * k + i < n := by omega
  simp [hi, h1]

/-- Writing one word leaves every other word (R90). -/
theorem getWord_setWord_ne {n : Nat} (v : BitVec n) {j k : Nat} (h : j ≠ k) (w : Word) :
    getWord (setWord v k w) j = getWord v j := by
  apply BitVec.eq_of_getLsbD_eq
  intro i hi
  rw [getLsbD_getWord, getLsbD_getWord, getLsbD_setWord]
  have h1 : ¬(32 * k ≤ 32 * j + i ∧ 32 * j + i < 32 * k + 32) := by omega
  by_cases hn : 32 * j + i < n
  · simp [h1, hn]
  · simp [hn, BitVec.getLsbD_of_ge v _ (Nat.not_lt.mp hn)]

/-- Writing an implemented word sets no bit past the implemented ones. -/
theorem setWord_lt {n b : Nat} {v : BitVec n} {k : Nat} (w : Word) (hk : 32 * k + 32 ≤ b)
    (hv : v.toNat < 2 ^ b) : (setWord v k w).toNat < 2 ^ b := by
  apply Nat.lt_pow_two_of_testBit
  intro i hi
  rw [BitVec.testBit_toNat, getLsbD_setWord]
  have h1 : ¬(32 * k ≤ i ∧ i < 32 * k + 32) := by omega
  have h2 : v.getLsbD i = false := by
    rw [← BitVec.testBit_toNat]
    exact Nat.testBit_lt_two_pow (lt_of_lt_of_le hv (Nat.pow_le_pow_right (by norm_num) hi))
  simp [h1, h2]

end Sys2Proof.Machine
end

