-- ==== Sys2Proof/Laws/Decode.lean ====
section
/-! SUPPORT. The fields of an assembled command word (30_encoding.md R110), and the must-be-zero bits of each format
(R111). -/

namespace Sys2Proof

theorem getLsbD_assemble (opc : BitVec 8) (rd ra rb : RegIdx) (s : Bool) (i : Nat) :
    (assemble opc rd ra rb s).getLsbD i =
      if i = 0 then s
      else if i < 12 then false
      else if i < 16 then rb.getLsbD (i - 12)
      else if i < 20 then ra.getLsbD (i - 16)
      else if i < 24 then rd.getLsbD (i - 20)
      else opc.getLsbD (i - 24) := by
  simp only [assemble, BitVec.getLsbD_append, BitVec.getLsbD_zero]
  by_cases h0 : i = 0
  · subst h0; simp
  by_cases h1 : i < 12
  · have : i - 1 < 11 := by omega
    simp [h0, h1, this, show ¬ i < 1 by omega]
  by_cases h2 : i < 16
  · have e : i - 1 - 11 = i - 12 := by omega
    simp [h0, h1, h2, show ¬ i < 1 by omega, show ¬ i - 1 < 11 by omega, e, show i - 12 < 4 by omega]
  by_cases h3 : i < 20
  · have e : i - 1 - 11 - 4 = i - 16 := by omega
    simp [h0, h1, h2, h3, show ¬ i < 1 by omega, show ¬ i - 1 < 11 by omega, show ¬ i - 1 - 11 < 4 by omega, e,
      show i - 16 < 4 by omega]
  by_cases h4 : i < 24
  · have e : i - 1 - 11 - 4 - 4 = i - 20 := by omega
    simp [h0, h1, h2, h3, h4, show ¬ i < 1 by omega, show ¬ i - 1 < 11 by omega, show ¬ i - 1 - 11 < 4 by omega,
      show ¬ i - 1 - 11 - 4 < 4 by omega, e, show i - 20 < 4 by omega]
  · have e : i - 1 - 11 - 4 - 4 - 4 = i - 24 := by omega
    simp [h0, h1, h2, h3, h4, show ¬ i < 1 by omega, show ¬ i - 1 < 11 by omega, show ¬ i - 1 - 11 < 4 by omega,
      show ¬ i - 1 - 11 - 4 < 4 by omega, show ¬ i - 1 - 11 - 4 - 4 < 4 by omega, e]

variable (opc : BitVec 8) (rd ra rb : RegIdx) (s : Bool)

@[simp] theorem fieldOPC_assemble : fieldOPC (assemble opc rd ra rb s) = opc := by
  apply BitVec.eq_of_getLsbD_eq
  intro i hi
  simp [fieldOPC, hi, getLsbD_assemble, show ¬ 24 + i < 12 by omega,
    show ¬ 24 + i < 16 by omega, show ¬ 24 + i < 20 by omega]

@[simp] theorem fieldRD_assemble : fieldRD (assemble opc rd ra rb s) = rd := by
  apply BitVec.eq_of_getLsbD_eq
  intro i hi
  simp [fieldRD, hi, getLsbD_assemble, show ¬ 20 + i < 12 by omega,
    show ¬ 20 + i < 16 by omega, show 20 + i < 24 by omega]

@[simp] theorem fieldRA_assemble : fieldRA (assemble opc rd ra rb s) = ra := by
  apply BitVec.eq_of_getLsbD_eq
  intro i hi
  simp [fieldRA, hi, getLsbD_assemble, show ¬ 16 + i < 12 by omega,
    show 16 + i < 20 by omega]

@[simp] theorem fieldRB_assemble : fieldRB (assemble opc rd ra rb s) = rb := by
  apply BitVec.eq_of_getLsbD_eq
  intro i hi
  simp [fieldRB, hi, getLsbD_assemble, show 12 + i < 16 by omega]

@[simp] theorem fieldS_assemble : fieldS (assemble opc rd ra rb s) = s := by
  rw [fieldS, getLsbD_assemble, if_pos rfl]

/-- Every encoded command has its opcode in OPC. -/
theorem fieldOPC_encode (i : Instr) : fieldOPC (encode i) = i.opcode := by
  cases i <;> exact fieldOPC_assemble ..

/-- Bit `i` of a must-be-zero mask meets bit `i` of a word. -/
theorem and_eq_zero_of_bits {w m : Word} (h : ∀ i, i < 32 → m.getLsbD i = true → w.getLsbD i = false) :
    w &&& m = 0#32 := by
  apply BitVec.eq_of_getLsbD_eq
  intro i hi
  cases hm : m.getLsbD i <;> simp [hm, h i hi]

end Sys2Proof
end

