-- ==== Sys2Proof/Laws/Ops.lean ====
section
/-! SUPPORT. The shared operations of the engine: what a chain of checks gives, and what a completion leaves. -/

namespace Sys2Proof.Machine

@[simp] theorem check_true (e : ErrCode) (s : State) (k : Reply) : check true e s k = k := rfl
@[simp] theorem check_false (e : ErrCode) (s : State) (k : Reply) : check false e s k = raise e s := rfl
@[simp] theorem succeed_code (s : State) : (succeed s).code = .none := rfl
@[simp] theorem succeed_state (s : State) : (succeed s).state = s := rfl
@[simp] theorem raise_code (e : ErrCode) (s : State) : (raise e s).code = e := rfl
@[simp] theorem raise_state (e : ErrCode) (s : State) : (raise e s).state = s := rfl

theorem needLegal_of {i : Instr} {s : State} (h : i.wf s.params = true) (k : Reply) : needLegal i s k = k := by
  simp [needLegal, h]

theorem needCfgv_of {s : State} (h : s.status.cfgv = true) (k : Reply) : needCfgv s k = k := by
  simp [needCfgv, h]

theorem needBrkv_of {s : State} (h : s.status.brkv = true) (k : Reply) : needBrkv s k = k := by
  simp [needBrkv, h]

theorem needCanon_of {ok : Bool} (h : ok = true) (s : State) (k : Reply) : needCanon ok s k = k := by
  simp [needCanon, h]

/-- Everything a check can do: it passes and the chain goes on, or it fails and the command raises. -/
theorem check_cases (ok : Bool) (e : ErrCode) (s : State) (k : Reply) :
    (ok = true ∧ check ok e s k = k) ∨ (ok = false ∧ check ok e s k = raise e s) := by
  cases ok <;> simp

/-- Everything a completion can do: it is the one next state of R272. -/
theorem Reply.finish_eq_next {r : Reply} {t : State} (h : r.finish = .next t) : t = r.state.complete r.code := by
  simpa [Reply.finish, eq_comm] using h

/-- An error completion changes nothing but ERR, BUSY and DONE (R273). -/
theorem failsWith_raise (e : ErrCode) (s : State) : FailsWith e s (s.complete e) :=
  ⟨⟨rfl, rfl, rfl⟩, ⟨rfl, rfl, rfl, rfl, rfl, rfl, rfl, rfl, rfl⟩, ⟨rfl, rfl⟩, ⟨rfl, rfl⟩,
    ⟨fun _ => rfl, rfl, fun _ => rfl, fun _ => rfl⟩⟩

/-- A completion whose one effect is a write of Fd. -/
theorem succeedsInF_writeF (s : State) (d : FReg) (v : Nat) :
    SucceedsInF d.toNat s ((s.writeF d v).complete .none) :=
  ⟨⟨rfl, rfl, rfl⟩, ⟨rfl, rfl, rfl, rfl, rfl, rfl, rfl, rfl, rfl⟩, ⟨rfl, rfl⟩, ⟨rfl, rfl⟩,
    ⟨fun i hi => (s.fReg_writeF d v i).trans (if_neg hi), rfl, fun _ => rfl, fun _ => rfl⟩⟩

/-- A completion whose one effect is a write of an implemented Pd. -/
theorem succeedsInP_writeP {s : State} {d : PReg} (hd : s.params.pOk d = true) (v : Pt) :
    SucceedsInP d.toNat s ((s.writeP d v).complete .none) :=
  ⟨⟨rfl, rfl, rfl⟩, ⟨rfl, rfl, rfl, rfl, rfl, rfl, rfl, rfl, rfl⟩, ⟨rfl, rfl⟩, ⟨rfl, rfl⟩,
    ⟨fun _ => rfl, rfl, fun j hj => (s.pReg_writeP hd v j).trans (if_neg hj), fun _ => rfl⟩⟩

/-- What Pd holds after a command's write of a point whose coordinates fit. -/
theorem holdsPoint_writeP {s : State} {d : PReg} (hd : s.params.pOk d = true) {v : Pt}
    (hv : ∀ x y, v = .aff x y → x < 2 ^ 1024 ∧ y < 2 ^ 1024) :
    HoldsPoint ((s.writeP d v).complete .none) d.toNat v := by
  have hr : ((s.writeP d v).complete .none).pReg d.toNat = PointReg.ofPt v := by
    have h := s.pReg_writeP hd v d.toNat
    rw [if_pos rfl] at h
    exact h
  cases v with
  | O => simp [HoldsPoint, hr, PointReg.ofPt, PointReg.infinity]
  | aff x y =>
    obtain ⟨hx, hy⟩ := hv x y rfl
    simp only [HoldsPoint, hr, PointReg.ofPt, toNat_ofNat_of_lt hx, toNat_ofNat_of_lt hy, and_self]

end Sys2Proof.Machine
end

