-- ==== Sys2Proof/Laws/Exec.lean ====
section
/-! SUPPORT. Everything a command can do, said once: the inversion of `exec` and of `step`. -/

namespace Sys2Proof.Machine

/-- What a command that ends with code 0 does before it completes, with the checks it has passed (R274): the
invariants and frames are proved from this, without unfolding the meanings. -/
inductive Succeeds (s : State) : Instr → State → Prop where
  | nop : Succeeds s .nop s
  | cfgchk (h : s.cfgOk = true) : Succeeds s .cfgchk (s.setCfgv true)
  | zeroize : Succeeds s .zeroize s.zeroize
  | fadd {d a b : FReg} (w : (Instr.fadd d a b).wf s.params = true) (v : s.status.cfgv = true)
      (ha : s.canonF a = true) (hb : s.canonF b = true) :
      Succeeds s (.fadd d a b) (s.writeF d (fadd (s.fVal a) (s.fVal b)))
  | fmul {d a b : FReg} (w : (Instr.fmul d a b).wf s.params = true) (v : s.status.cfgv = true)
      (ha : s.canonF a = true) (hb : s.canonF b = true) :
      Succeeds s (.fmul d a b) (s.writeF d (fmul s.cfg (s.fVal a) (s.fVal b)))
  | fsqr {d a : FReg} (w : (Instr.fsqr d a).wf s.params = true) (v : s.status.cfgv = true)
      (ha : s.canonF a = true) : Succeeds s (.fsqr d a) (s.writeF d (fsqr s.cfg (s.fVal a)))
  | finv {d a : FReg} (w : (Instr.finv d a).wf s.params = true) (v : s.status.cfgv = true)
      (ha : s.canonF a = true) (h0 : s.fVal a ≠ 0) : Succeeds s (.finv d a) (s.writeF d (finv s.cfg (s.fVal a)))
  | fclmul {a b : FReg} (w : (Instr.fclmul a b).wf s.params = true) (v : s.status.cfgv = true)
      (ha : s.canonF a = true) (hb : s.canonF b = true) :
      Succeeds s (.fclmul a b) (s.writeWide (clmul (s.fVal a) (s.fVal b)))
  | fred {d : FReg} (w : (Instr.fred d).wf s.params = true) (v : s.status.cfgv = true) :
      Succeeds s (.fred d) (s.writeF d (polymod s.wide.toNat (redPoly s.cfg)))
  | pchk {a : PReg} (w : (Instr.pchk a).wf s.params = true) (v : s.status.cfgv = true) (ha : s.canonP a = true) :
      Succeeds s (.pchk a) (s.setFlag (oncurve s.cfg (s.ptVal a)))
  | pdbl {d a : PReg} (w : (Instr.pdbl d a).wf s.params = true) (v : s.status.cfgv = true)
      (ha : s.canonP a = true) : Succeeds s (.pdbl d a) (s.writeP d (ecdbl s.cfg (s.ptVal a)))
  | padd {d a b : PReg} (w : (Instr.padd d a b).wf s.params = true) (v : s.status.cfgv = true)
      (ha : s.canonP a = true) (hb : s.canonP b = true) :
      Succeeds s (.padd d a b) (s.writeP d (ecadd s.cfg (s.ptVal a) (s.ptVal b)))
  | solvey {d a : FReg} {sel : Bool} {y : Nat} (w : (Instr.solvey d a sel).wf s.params = true)
      (v : s.status.cfgv = true) (ha : s.canonF a = true) (hy : ecsolve s.cfg (s.fVal a) sel = some y) :
      Succeeds s (.solvey d a sel) (s.writeF d y)
  | pcmp {d : FReg} {a : PReg} (w : (Instr.pcmp d a).wf s.params = true) (v : s.status.cfgv = true)
      (ha : s.canonP a = true) :
      Succeeds s (.pcmp d a)
        ((s.writeF d (compress s.cfg (s.ptVal a)).1).setSel (compress s.cfg (s.ptVal a)).2)
  | pdec {d : PReg} {a : FReg} {sel : Bool} {q : Pt} (w : (Instr.pdec d a sel).wf s.params = true)
      (v : s.status.cfgv = true) (ha : s.canonF a = true) (hq : decompress s.cfg (s.fVal a) sel = some q) :
      Succeeds s (.pdec d a sel) (s.writeP d q)
  | bchk (v : s.status.cfgv = true) (h : s.brickOk = true) : Succeeds s .bchk (s.setBrkv true)
  | bmul {d : PReg} {a : SReg} (w : (Instr.bmul d a).wf s.params = true) (v : s.status.cfgv = true)
      (vb : s.status.brkv = true) (hk : s.sVal a < 2 ^ s.cfg.combLen) :
      Succeeds s (.bmul d a) (s.writeP d (windowMul s.cfg s.cfg.window s.cfg.combLen (s.sVal a) s.tpt))
  | smul {d : PReg} {a : SReg} {b : PReg} (w : (Instr.smul d a b).wf s.params = true) (v : s.status.cfgv = true)
      (hb : s.canonP b = true) (hk : s.sVal a < 2 ^ s.cfg.deg) (hq : oncurve s.cfg (s.ptVal b) = true) :
      Succeeds s (.smul d a b) (s.writeP d (scalarMul s.cfg (s.sVal a) (s.ptVal b)))

/-- The ways a command can end (R272, R273): with its effects, with an error and no effect, or with one of the two
failed validations, which clear validity bits. -/
inductive Ends (s : State) (i : Instr) : State → Prop where
  | ok {s' : State} (h : Succeeds s i s') : Ends s i (s'.complete .none)
  | fail (e : ErrCode) (h : e ≠ .none) : Ends s i (s.complete e)
  | badCfg (h : i = .cfgchk) (hc : s.cfgOk = false) : Ends s i (s.invalidate.complete .invalidCurveParameters)
  | badTable (h : i = .bchk) (v : s.status.cfgv = true) (hc : s.brickOk = false) :
      Ends s i ((s.setBrkv false).complete .invalidTable)

theorem ends_check {s : State} {i : Instr} {ok : Bool} {e : ErrCode} {k : Reply} {t : State} (he : e ≠ .none)
    (h : (check ok e s k).finish = .next t) (hk : ok = true → k.finish = .next t → Ends s i t) : Ends s i t := by
  cases ok with
  | true => exact hk rfl h
  | false => rw [Reply.finish_eq_next h]; exact .fail e he

theorem ends_succeed {s s' : State} {i : Instr} {t : State} (h : (succeed s').finish = .next t)
    (hs : Succeeds s i s') : Ends s i t := by
  rw [Reply.finish_eq_next h]; exact .ok hs

/-- Everything a command can do. -/
theorem exec_ends {i : Instr} {s t : State} (h : exec i s = .next t) : Ends s i t := by
  cases i with
  | nop => exact ends_succeed h .nop
  | cfgchk =>
    change (if s.cfgOk then succeed (s.setCfgv true) else raise .invalidCurveParameters s.invalidate).finish = _ at h
    cases hc : s.cfgOk with
    | true => rw [hc] at h; exact ends_succeed h (.cfgchk hc)
    | false => rw [hc] at h; rw [Reply.finish_eq_next h]; exact .badCfg rfl hc
  | zeroize => exact ends_succeed h .zeroize
  | fadd d a b =>
    refine ends_check (by decide) h fun w h => ends_check (by decide) h fun v h => ends_check (by decide) h fun hc h => ?_
    rw [Bool.and_eq_true] at hc
    exact ends_succeed h (.fadd w v hc.1 hc.2)
  | fmul d a b =>
    refine ends_check (by decide) h fun w h => ends_check (by decide) h fun v h => ends_check (by decide) h fun hc h => ?_
    rw [Bool.and_eq_true] at hc
    exact ends_succeed h (.fmul w v hc.1 hc.2)
  | fsqr d a =>
    exact ends_check (by decide) h fun w h => ends_check (by decide) h fun v h => ends_check (by decide) h fun hc h =>
      ends_succeed h (.fsqr w v hc)
  | finv d a =>
    exact ends_check (by decide) h fun w h => ends_check (by decide) h fun v h => ends_check (by decide) h fun hc h =>
      ends_check (by decide) h fun h0 h => ends_succeed h (.finv w v hc (of_decide_eq_true h0))
  | fclmul a b =>
    refine ends_check (by decide) h fun w h => ends_check (by decide) h fun v h => ends_check (by decide) h fun hc h => ?_
    rw [Bool.and_eq_true] at hc
    exact ends_succeed h (.fclmul w v hc.1 hc.2)
  | fred d =>
    exact ends_check (by decide) h fun w h => ends_check (by decide) h fun v h => ends_succeed h (.fred w v)
  | pchk a =>
    exact ends_check (by decide) h fun w h => ends_check (by decide) h fun v h => ends_check (by decide) h fun hc h =>
      ends_succeed h (.pchk w v hc)
  | pdbl d a =>
    exact ends_check (by decide) h fun w h => ends_check (by decide) h fun v h => ends_check (by decide) h fun hc h =>
      ends_succeed h (.pdbl w v hc)
  | padd d a b =>
    refine ends_check (by decide) h fun w h => ends_check (by decide) h fun v h => ends_check (by decide) h fun hc h => ?_
    rw [Bool.and_eq_true] at hc
    exact ends_succeed h (.padd w v hc.1 hc.2)
  | solvey d a sel =>
    refine ends_check (by decide) h fun w h => ends_check (by decide) h fun v h => ends_check (by decide) h fun hc h => ?_
    cases hy : ecsolve s.cfg (s.fVal a) sel with
    | none => rw [hy] at h; rw [Reply.finish_eq_next h]; exact .fail .decompressionFailure (by decide)
    | some y => rw [hy] at h; exact ends_succeed h (.solvey w v hc hy)
  | pcmp d a =>
    exact ends_check (by decide) h fun w h => ends_check (by decide) h fun v h => ends_check (by decide) h fun hc h =>
      ends_succeed h (.pcmp w v hc)
  | pdec d a sel =>
    refine ends_check (by decide) h fun w h => ends_check (by decide) h fun v h => ends_check (by decide) h fun hc h => ?_
    cases hq : decompress s.cfg (s.fVal a) sel with
    | none => rw [hq] at h; rw [Reply.finish_eq_next h]; exact .fail .decompressionFailure (by decide)
    | some q => rw [hq] at h; exact ends_succeed h (.pdec w v hc hq)
  | bchk =>
    refine ends_check (by decide) h fun w h => ends_check (by decide) h fun v h => ?_
    cases hc : s.brickOk with
    | true => rw [hc] at h; exact ends_succeed h (.bchk v hc)
    | false => rw [hc] at h; rw [Reply.finish_eq_next h]; exact .badTable rfl v hc
  | bmul d a =>
    exact ends_check (by decide) h fun w h => ends_check (by decide) h fun v h => ends_check (by decide) h fun vb h =>
      ends_check (by decide) h fun hk h => ends_succeed h (.bmul w v vb (of_decide_eq_true hk))
  | smul d a b =>
    exact ends_check (by decide) h fun w h => ends_check (by decide) h fun v h => ends_check (by decide) h fun hc h =>
      ends_check (by decide) h fun hk h => ends_check (by decide) h fun hq h =>
      ends_succeed h (.smul w v hc (of_decide_eq_true hk) hq)

/-- Every meaning is a completion, so `exec` always answers a next state (R270). -/
theorem exec_eq_finish (i : Instr) (s : State) : ∃ r : Reply, exec i s = r.finish := by
  cases i <;> exact ⟨_, rfl⟩

/-- Everything the engine's turn can do. -/
theorem engineTurn_cases {s t : State} (h : engineTurn s = .next t) :
    (s.status.busy = false ∧ t = s) ∨
    (s.status.busy = true ∧ ((∃ i, fetch s = .ok i ∧ exec i s = .next t) ∨
      (∃ e, fetch s = .error e ∧ t = s.complete .illegalCommand))) := by
  unfold engineTurn at h
  cases hb : s.status.busy with
  | false => rw [hb] at h; exact .inl ⟨rfl, (by simpa using h : s = t).symm⟩
  | true =>
    rw [hb] at h
    cases hf : fetch s with
    | ok i => rw [hf] at h; exact .inr ⟨rfl, .inl ⟨i, rfl, h⟩⟩
    | error e => rw [hf] at h; exact .inr ⟨rfl, .inr ⟨e, rfl, Reply.finish_eq_next h⟩⟩

/-- Everything a host access can do: an admitted one answers a next state. -/
theorem hostAccess_cases {a : Access} {s t : State} (h : hostAccess a s = .next t) :
    ∃ l, a.inAperture s.params = true ∧ a.target s.params = some l ∧ t = hostAccessAt l a.kind s := by
  unfold hostAccess at h
  split at h
  · next hin =>
    cases ht : a.target s.params with
    | none => rw [ht] at h; cases h
    | some l => rw [ht] at h; exact ⟨l, hin, rfl, (by simpa using h : _ = t).symm⟩
  · cases h

/-- Everything a step can do: the first pending input, or the engine's turn. -/
theorem step_cases {s t : State} (h : Sys2Proof.Machine.step s = .next t) :
    (s.inbox = [] ∧ engineTurn s = .next t) ∨
    (∃ rest, s.inbox = .engine :: rest ∧ engineTurn { s with inbox := rest } = .next t) ∨
    (∃ a rest, s.inbox = .access a :: rest ∧ hostAccess a { s with inbox := rest } = .next t) ∨
    (∃ rest, s.inbox = .reset :: rest ∧ t = unitReset { s with inbox := rest }) := by
  unfold step at h
  split at h
  · next hi => exact .inl ⟨hi, h⟩
  · next rest hi => exact .inr (.inl ⟨rest, hi, h⟩)
  · next a rest hi => exact .inr (.inr (.inl ⟨a, rest, hi, h⟩))
  · next rest hi => exact .inr (.inr (.inr ⟨rest, hi, (by simpa using h : _ = t).symm⟩))

end Sys2Proof.Machine
end

