-- ==== Sys2Proof/Laws/Poly.lean ====
section
/-! SUPPORT. The arithmetic of Machine/Poly.lean is that of the polynomial ring over GF(2): `toPoly` is the polynomial an
unsigned integer stands for (00_scope.md R14), and it carries exclusive-or to addition, `clmul` to multiplication and
`polymod` to the remainder. -/

namespace Sys2Proof.Machine

open Polynomial

/-- The polynomial over GF(2) that an unsigned integer stands for (R14). -/
noncomputable def toPoly (v : Nat) : (ZMod 2)[X] :=
  ∑ i ∈ Finset.range (v.log2 + 1), if v.testBit i then X ^ i else 0

theorem testBit_eq_false_of_log2_lt {v i : Nat} (h : v.log2 < i) : v.testBit i = false :=
  Nat.testBit_lt_two_pow (lt_of_lt_of_le Nat.lt_log2_self (Nat.pow_le_pow_right (by norm_num) h))

@[simp] theorem coeff_toPoly (v i : Nat) : (toPoly v).coeff i = if v.testBit i then 1 else 0 := by
  have h : ∀ j, ((if v.testBit j then X ^ j else 0 : (ZMod 2)[X])).coeff i =
      if j = i then (if v.testBit i then 1 else 0) else 0 := by
    intro j
    by_cases hj : j = i
    · subst hj; by_cases hb : v.testBit j <;> simp [hb]
    · by_cases hb : v.testBit j <;> simp [hb, hj, coeff_X_pow, Ne.symm hj]
  simp only [toPoly, finsetSum_coeff, h, Finset.sum_ite_eq', Finset.mem_range]
  by_cases hi : i < v.log2 + 1
  · simp [hi]
  · simp [hi, testBit_eq_false_of_log2_lt (show v.log2 < i by omega)]

theorem toPoly_injective : Function.Injective toPoly := by
  intro u v h
  apply Nat.eq_of_testBit_eq
  intro i
  have hi := congrArg (fun p => p.coeff i) h
  simp only [coeff_toPoly] at hi
  by_cases hu : u.testBit i <;> by_cases hv : v.testBit i <;> simp_all

@[simp] theorem toPoly_zero : toPoly 0 = 0 := by ext i; simp

@[simp] theorem toPoly_two_pow (n : Nat) : toPoly (2 ^ n) = X ^ n := by
  ext i
  rw [coeff_toPoly, coeff_X_pow, Nat.testBit_two_pow]
  by_cases h : n = i <;> simp [h, eq_comm]

@[simp] theorem toPoly_one : toPoly 1 = 1 := by simpa using toPoly_two_pow 0

@[simp] theorem toPoly_two : toPoly 2 = X := by simpa using toPoly_two_pow 1

@[simp] theorem toPoly_xor (u v : Nat) : toPoly (u ^^^ v) = toPoly u + toPoly v := by
  ext i
  simp only [coeff_add, coeff_toPoly, Nat.testBit_xor]
  by_cases hu : u.testBit i <;> by_cases hv : v.testBit i <;> simp [hu, hv]
  decide

@[simp] theorem toPoly_shiftLeft (v n : Nat) : toPoly (v <<< n) = toPoly v * X ^ n := by
  ext i
  rw [coeff_mul_X_pow', coeff_toPoly, Nat.testBit_shiftLeft]
  by_cases h : n ≤ i <;> simp [h]

theorem toPoly_eq_zero {v : Nat} : toPoly v = 0 ↔ v = 0 :=
  ⟨fun h => toPoly_injective (h.trans toPoly_zero.symm), fun h => h ▸ toPoly_zero⟩

theorem testBit_log2 {v : Nat} (h : v ≠ 0) : v.testBit v.log2 = true := by
  rw [Nat.testBit_log2]; simp [h]

theorem toPoly_natDegree (v : Nat) : (toPoly v).natDegree = v.log2 := by
  by_cases h : v = 0
  · subst h; simp [Nat.log2_zero]
  · apply natDegree_eq_of_le_of_coeff_ne_zero
    · rw [natDegree_le_iff_coeff_eq_zero]
      intro i hi
      simp [testBit_eq_false_of_log2_lt hi]
    · simp [testBit_log2 h]

theorem toPoly_monic {v : Nat} (h : v ≠ 0) : (toPoly v).Monic := by
  rw [Monic, leadingCoeff, toPoly_natDegree, coeff_toPoly, testBit_log2 h]; simp

theorem toPoly_clmulLow (u v n : Nat) :
    toPoly (clmulLow u v n) = (∑ i ∈ Finset.range n, if u.testBit i then X ^ i else 0) * toPoly v := by
  induction n with
  | zero => simp [clmulLow]
  | succ n ih =>
    rw [clmulLow, toPoly_xor, ih, Finset.sum_range_succ, add_mul, add_comm]
    congr 1
    by_cases h : u.testBit n <;> simp [h, mul_comm]

/-- The carry-less product is the product of polynomials (R14). -/
@[simp] theorem toPoly_clmul (u v : Nat) : toPoly (clmul u v) = toPoly u * toPoly v :=
  toPoly_clmulLow u v _

theorem clmul_comm (u v : Nat) : clmul u v = clmul v u := toPoly_injective (by simp [mul_comm])

theorem clmul_assoc (u v w : Nat) : clmul (clmul u v) w = clmul u (clmul v w) :=
  toPoly_injective (by simp [mul_assoc])

theorem clmul_xor (u v w : Nat) : clmul u (v ^^^ w) = clmul u v ^^^ clmul u w :=
  toPoly_injective (by simp [mul_add])

theorem xor_clmul (u v w : Nat) : clmul (u ^^^ v) w = clmul u w ^^^ clmul v w :=
  toPoly_injective (by simp [add_mul])

@[simp] theorem clmul_one (u : Nat) : clmul u 1 = u := toPoly_injective (by simp)
@[simp] theorem clmul_zero (u : Nat) : clmul u 0 = 0 := toPoly_injective (by simp)

/-- The degree of a product is the sum of the degrees. -/
theorem log2_clmul {u v : Nat} (hu : u ≠ 0) (hv : v ≠ 0) : (clmul u v).log2 = u.log2 + v.log2 := by
  rw [← toPoly_natDegree, toPoly_clmul, natDegree_mul (toPoly_eq_zero.not.mpr hu) (toPoly_eq_zero.not.mpr hv),
    toPoly_natDegree, toPoly_natDegree]

theorem log2_lt_iff {v n : Nat} (h : v ≠ 0) : v.log2 < n ↔ v < 2 ^ n := Nat.log2_lt h

/-- Long division keeps the value up to a multiple of `f`, and clears the bits from `d` on. -/
theorem polymodFrom_spec {f d : Nat} (hf : f ≠ 0) (hd : f.log2 = d) (n w : Nat) (hw : w < 2 ^ (d + n)) :
    polymodFrom f d n w < 2 ^ d ∧ ∃ q, w = clmul q f ^^^ polymodFrom f d n w := by
  induction n generalizing w with
  | zero => exact ⟨hw, 0, by simp [polymodFrom, clmul_comm 0 f]⟩
  | succ n ih =>
    have hfb : f.testBit d = true := hd ▸ testBit_log2 hf
    by_cases hb : w.testBit (d + n)
    · have hlt : w ^^^ (f <<< n) < 2 ^ (d + n) := by
        apply Nat.lt_pow_two_of_testBit
        intro i hi
        rw [Nat.testBit_xor, Nat.testBit_shiftLeft]
        rcases Nat.eq_or_lt_of_le hi with h | h
        · subst h; simp [hb, hfb]
        · have h1 : w.testBit i = false :=
            Nat.testBit_lt_two_pow (lt_of_lt_of_le hw (Nat.pow_le_pow_right (by norm_num) (by omega)))
          have h2 : f.testBit (i - n) = false := testBit_eq_false_of_log2_lt (by omega)
          simp [h1, h2]
      obtain ⟨h1, q, h2⟩ := ih _ hlt
      refine ⟨by simpa [polymodFrom, hb] using h1, q ^^^ 2 ^ n, ?_⟩
      rw [polymodFrom, if_pos hb]
      apply toPoly_injective
      have h3 := congrArg toPoly h2
      simp only [toPoly_xor, toPoly_shiftLeft, toPoly_clmul, toPoly_two_pow] at h3 ⊢
      rw [add_mul, add_right_comm, ← h3, mul_comm (X ^ n), add_assoc, CharTwo.add_self_eq_zero, add_zero]
    · have hlt : w < 2 ^ (d + n) := by
        apply Nat.lt_pow_two_of_testBit
        intro i hi
        rcases Nat.eq_or_lt_of_le hi with h | h
        · subst h; simpa using hb
        · exact Nat.testBit_lt_two_pow (lt_of_lt_of_le hw (Nat.pow_le_pow_right (by norm_num) (by omega)))
      obtain ⟨h1, q, h2⟩ := ih _ hlt
      exact ⟨by simpa [polymodFrom, hb] using h1, q, by simpa [polymodFrom, hb] using h2⟩

theorem lt_two_pow_polymod_bits (w d : Nat) : w < 2 ^ (d + (w.log2 + 1 - d)) :=
  lt_of_lt_of_le Nat.lt_log2_self (Nat.pow_le_pow_right (by norm_num) (by omega))

/-- Everything `polymod` does: a remainder below 2^deg(f), and a quotient (R14). -/
theorem polymod_spec {f : Nat} (hf : f ≠ 0) (w : Nat) :
    polymod w f < 2 ^ f.log2 ∧ ∃ q, w = clmul q f ^^^ polymod w f :=
  polymodFrom_spec hf rfl _ _ (lt_two_pow_polymod_bits w _)

theorem polymod_lt {f : Nat} (hf : f ≠ 0) (w : Nat) : polymod w f < 2 ^ f.log2 := (polymod_spec hf w).1

theorem toPoly_degree_lt {v d : Nat} (h : v < 2 ^ d) : (toPoly v).degree < d := by
  rw [degree_lt_iff_coeff_zero]
  intro i hi
  simp [Nat.testBit_lt_two_pow (lt_of_lt_of_le h (Nat.pow_le_pow_right (by norm_num) hi))]

theorem toPoly_degree {f : Nat} (hf : f ≠ 0) : (toPoly f).degree = f.log2 := by
  rw [degree_eq_natDegree (toPoly_eq_zero.not.mpr hf), toPoly_natDegree]

/-- `polymod` is the remainder of polynomials (R14). -/
theorem toPoly_polymod {f : Nat} (hf : f ≠ 0) (w : Nat) : toPoly (polymod w f) = toPoly w %ₘ toPoly f := by
  obtain ⟨h1, q, h2⟩ := polymod_spec hf w
  have h3 := congrArg toPoly h2
  rw [toPoly_xor, toPoly_clmul] at h3
  refine ((div_modByMonic_unique (toPoly q) (toPoly (polymod w f)) (toPoly_monic hf) ⟨?_, ?_⟩).2).symm
  · rw [h3, mul_comm, add_comm]
  · rw [toPoly_degree hf]; exact toPoly_degree_lt h1

/-- The remainder is unique (R14). -/
theorem polymod_unique {f r w q : Nat} (hf : f ≠ 0) (hr : r < 2 ^ f.log2) (h : w = clmul q f ^^^ r) :
    polymod w f = r := by
  apply toPoly_injective
  rw [toPoly_polymod hf, h, toPoly_xor, toPoly_clmul, add_modByMonic, mul_self_modByMonic (toPoly_monic hf), zero_add]
  rw [modByMonic_eq_self_iff (toPoly_monic hf), toPoly_degree hf]
  exact toPoly_degree_lt hr

theorem polymod_of_lt {f r : Nat} (hf : f ≠ 0) (hr : r < 2 ^ f.log2) : polymod r f = r :=
  polymod_unique (q := 0) hf hr (by rw [clmul_comm, clmul_zero, Nat.zero_xor])

theorem polymod_xor {f : Nat} (hf : f ≠ 0) (u v : Nat) : polymod (u ^^^ v) f = polymod u f ^^^ polymod v f :=
  toPoly_injective (by simp [toPoly_polymod hf, add_modByMonic])

theorem polymod_clmul_left {f : Nat} (hf : f ≠ 0) (u v : Nat) :
    polymod (clmul (polymod u f) v) f = polymod (clmul u v) f := by
  obtain ⟨_, q, h⟩ := polymod_spec hf u
  have h' : clmul u v = clmul (clmul q v) f ^^^ clmul (polymod u f) v := by
    conv_lhs => rw [h]
    rw [xor_clmul, clmul_assoc, clmul_comm f v, ← clmul_assoc]
  have hz : polymod (clmul (clmul q v) f) f = 0 :=
    polymod_unique (q := clmul q v) hf (Nat.two_pow_pos _) (Nat.xor_zero _).symm
  rw [h', polymod_xor hf, hz, Nat.zero_xor]

theorem polymod_clmul_right {f : Nat} (hf : f ≠ 0) (u v : Nat) :
    polymod (clmul u (polymod v f)) f = polymod (clmul u v) f := by
  rw [clmul_comm, polymod_clmul_left hf, clmul_comm]

theorem sqrIter_lt {f u : Nat} (hf : f ≠ 0) (hu : u < 2 ^ f.log2) (n : Nat) : sqrIter f u n < 2 ^ f.log2 := by
  induction n generalizing u with
  | zero => exact hu
  | succ n ih => exact ih (polymod_lt hf _)

end Sys2Proof.Machine
end

