-- ==== Sys2Proof/Laws/Field.lean ====
section
/-! SUPPORT. The field and the point functions keep canonical values canonical, in every configuration whose
polynomial has the shape CFGCHK asks for (10_state.md R33). -/

namespace Sys2Proof.Machine

variable {c : Cfg}

theorem polyShapeOk_iff : polyShapeOk c = true ↔
    (c.ec = 0 ∧ c.eb = 0 ∧ 1 ≤ c.ea.toNat ∧ c.ea.toNat < c.deg) ∨
    (c.ea.toNat < c.deg ∧ c.eb.toNat < c.ea.toNat ∧ c.ec.toNat < c.eb.toNat ∧ 1 ≤ c.ec.toNat) := by
  simp [polyShapeOk, and_assoc]

/-- The reduction polynomial is x^m plus terms of lower degree. -/
theorem redPoly_testBit_high (h : polyShapeOk c = true) {i : Nat} (hi : c.deg ≤ i) :
    (redPoly c).testBit i = decide (i = c.deg) := by
  have key : ∀ e, e < c.deg → (2 ^ e).testBit i = false := fun e he => by
    rw [Nat.testBit_two_pow]; simp; omega
  have hm : (2 ^ c.deg).testBit i = decide (i = c.deg) := by
    rw [Nat.testBit_two_pow]; simp [eq_comm]
  rcases polyShapeOk_iff.mp h with ⟨h1, h2, h3, h4⟩ | ⟨h1, h2, h3, h4⟩
  · have k1 : (1 : Nat).testBit i = false := key 0 (by omega)
    rw [redPoly, if_pos h1, Nat.testBit_xor, Nat.testBit_xor, hm, key _ h4, k1]
    simp
  · have k1 : (1 : Nat).testBit i = false := key 0 (by omega)
    have hc : c.ec ≠ 0 := by intro hc; rw [hc] at h4; simp at h4
    rw [redPoly, if_neg hc, Nat.testBit_xor, Nat.testBit_xor, Nat.testBit_xor, Nat.testBit_xor, hm, key _ h1,
      key _ (by omega), key _ (by omega), k1]
    simp

theorem redPoly_ne_zero (h : polyShapeOk c = true) : redPoly c ≠ 0 := by
  intro h0
  have := redPoly_testBit_high h le_rfl
  simp [h0] at this

theorem redPoly_log2 (h : polyShapeOk c = true) : (redPoly c).log2 = c.deg := by
  apply le_antisymm
  · by_contra hlt
    have h1 := testBit_log2 (redPoly_ne_zero h)
    rw [redPoly_testBit_high h (by omega)] at h1
    simp at h1
    omega
  · apply (Nat.le_log2 (redPoly_ne_zero h)).mpr
    apply Nat.ge_two_pow_of_testBit
    rw [redPoly_testBit_high h le_rfl]
    simp

theorem polymod_redPoly_lt (h : polyShapeOk c = true) (w : Nat) : polymod w (redPoly c) < 2 ^ c.deg := by
  have := polymod_lt (redPoly_ne_zero h) w
  rwa [redPoly_log2 h] at this

theorem fadd_lt {n u v : Nat} (hu : u < 2 ^ n) (hv : v < 2 ^ n) : fadd u v < 2 ^ n := Nat.xor_lt_two_pow hu hv

theorem fmul_lt (h : polyShapeOk c = true) (u v : Nat) : fmul c u v < 2 ^ c.deg := polymod_redPoly_lt h _

theorem fsqr_lt (h : polyShapeOk c = true) (u : Nat) : fsqr c u < 2 ^ c.deg := polymod_redPoly_lt h _

theorem finv_lt (h : polyShapeOk c = true) (u : Nat) : finv c u < 2 ^ c.deg := polymod_redPoly_lt h _

theorem fdiv_lt (h : polyShapeOk c = true) (u v : Nat) : fdiv c u v < 2 ^ c.deg := fmul_lt h _ _

theorem fsqrTimes_lt (h : polyShapeOk c = true) {u : Nat} (hu : u < 2 ^ c.deg) (n : Nat) :
    fsqrTimes c u n < 2 ^ c.deg := by
  have := sqrIter_lt (redPoly_ne_zero h) (u := u) (by rwa [redPoly_log2 h]) n
  rwa [redPoly_log2 h] at this

theorem canon_iff {v : Nat} : canon c v = true ↔ v < 2 ^ c.deg := by simp [canon]

/-- A point value that is canonical: O, or an affine pair below 2^m (R274). -/
theorem ptCanon_aff {x y : Nat} : ptCanon c (.aff x y) = true ↔ x < 2 ^ c.deg ∧ y < 2 ^ c.deg := by
  simp [ptCanon, canon_iff]

@[simp] theorem ptCanon_O : ptCanon c .O = true := rfl

/-- Doubling keeps canonical points canonical (R33, R175). -/
theorem ecdbl_canon (h : polyShapeOk c = true) (ha : c.aVal < 2 ^ c.deg) {p : Pt} (hp : ptCanon c p = true) :
    ptCanon c (ecdbl c p) = true := by
  cases p with
  | O => rfl
  | aff x y =>
    obtain ⟨hx, _⟩ := ptCanon_aff.mp hp
    by_cases h0 : x = 0
    · simp [ecdbl, h0]
    · have hx' := fadd_lt (fadd_lt (fsqr_lt h (fadd x (fdiv c y x))) (fadd_lt hx (fdiv_lt h y x))) ha
      rw [ecdbl, if_neg h0]
      exact ptCanon_aff.mpr ⟨hx', fadd_lt (fadd_lt (fsqr_lt h x) (fmul_lt h _ _)) hx'⟩

/-- Addition keeps canonical points canonical (R33, R180). -/
theorem ecadd_canon (h : polyShapeOk c = true) (ha : c.aVal < 2 ^ c.deg) {p q : Pt} (hp : ptCanon c p = true)
    (hq : ptCanon c q = true) : ptCanon c (ecadd c p q) = true := by
  match p, q with
  | .O, q => simpa [ecadd] using hq
  | .aff _ _, .O => simpa [ecadd] using hp
  | .aff x1 y1, .aff x2 y2 =>
    obtain ⟨hx1, hy1⟩ := ptCanon_aff.mp hp
    obtain ⟨hx2, _⟩ := ptCanon_aff.mp hq
    rw [ecadd]
    split
    · exact ecdbl_canon h ha hp
    · split
      · rfl
      · have hx3 := fadd_lt (fadd_lt (fadd_lt (fadd_lt
          (fsqr_lt h (fdiv c (fadd y1 y2) (fadd x1 x2))) (fdiv_lt h (fadd y1 y2) (fadd x1 x2))) hx1) hx2) ha
        exact ptCanon_aff.mpr ⟨hx3, fadd_lt (fadd_lt (fmul_lt h _ _) hx3) hy1⟩

theorem ecdblTimes_canon (h : polyShapeOk c = true) (ha : c.aVal < 2 ^ c.deg) (n : Nat) {r : Pt}
    (hr : ptCanon c r = true) : ptCanon c (ecdblTimes c n r) = true := by
  induction n generalizing r with
  | zero => exact hr
  | succ n ih => exact ih (ecdbl_canon h ha hr)

/-- The double-and-add loop gives canonical points (R33, R240). -/
theorem mulLoop_canon (h : polyShapeOk c = true) (ha : c.aVal < 2 ^ c.deg) (k : Nat) {q : Pt}
    (hq : ptCanon c q = true) (n : Nat) {r : Pt} (hr : ptCanon c r = true) :
    ptCanon c (mulLoop c k q n r) = true := by
  induction n generalizing r with
  | zero => exact hr
  | succ n ih =>
    apply ih
    split
    · exact ecadd_canon h ha (ecdbl_canon h ha hr) hq
    · exact ecdbl_canon h ha hr

/-- The windowed loop gives canonical points, if the table does (R33, R225). -/
theorem windowLoop_canon (h : polyShapeOk c = true) (ha : c.aVal < 2 ^ c.deg) (w k : Nat) {t : Nat → Pt}
    (ht : ∀ i, i < 2 ^ w → ptCanon c (t i) = true) (n : Nat) {r : Pt} (hr : ptCanon c r = true) :
    ptCanon c (windowLoop c w k t n r) = true := by
  induction n generalizing r with
  | zero => exact hr
  | succ n ih =>
    exact ih (ecadd_canon h ha (ecdblTimes_canon h ha w hr) (ht _ (Nat.mod_lt _ (Nat.two_pow_pos w))))

/-- What the solver gives is canonical (R33, R185). -/
theorem ecsolve_lt (h : polyShapeOk c = true) (hb : c.bVal < 2 ^ c.deg) {x y : Nat} {s : Bool}
    (hy : ecsolve c x s = some y) : y < 2 ^ c.deg := by
  unfold ecsolve at hy
  split at hy
  · split at hy
    · cases hy
    · cases hy; exact fsqrTimes_lt h hb _
  · split at hy
    · cases hy
    · cases hy; exact fmul_lt h _ _

end Sys2Proof.Machine
end

