-- ==== Sys2Proof/Laws/Inv.lean ====
section
/-! SUPPORT. A check that decides the invariant of a concrete state. -/

namespace Sys2Proof.Machine

/-- The widths and absent slots of Safety's `Fits`, checked slot by slot. -/
def State.fitsCheck (s : State) : Bool :=
  (List.range 16).all (fun i =>
    decide ((s.fReg i).toNat < 2 ^ s.params.regw) && (decide (i < s.params.nf) || decide (s.fReg i = 0)) &&
    decide ((s.sReg i).toNat < 2 ^ s.params.regw) && (decide (i < s.params.ns) || decide (s.sReg i = 0))) &&
  (List.range 8).all (fun j =>
    decide ((s.pReg j).x.toNat < 2 ^ s.params.regw) && decide ((s.pReg j).y.toNat < 2 ^ s.params.regw) &&
    (decide (j < s.params.np) || decide (s.pReg j = PointReg.infinity))) &&
  (List.range 256).all (fun i =>
    decide ((s.tEntry i).x.toNat < 2 ^ s.params.regw) && decide ((s.tEntry i).y.toNat < 2 ^ s.params.regw) &&
    (decide (i < s.params.tableSize) || decide (s.tEntry i = TableEntry.zero))) &&
  decide (s.wide.toNat < 2 ^ (2 * s.params.regw)) &&
  decide (s.cfg.a.toNat < 2 ^ s.params.regw) && decide (s.cfg.b.toNat < 2 ^ s.params.regw) &&
  decide (s.cfg.gx.toNat < 2 ^ s.params.regw) && decide (s.cfg.gy.toNat < 2 ^ s.params.regw)

theorem State.fReg_of_ge (s : State) {i : Nat} (h : 16 ≤ i) : s.fReg i = 0 := by simp [State.fReg, h]
theorem State.sReg_of_ge (s : State) {i : Nat} (h : 16 ≤ i) : s.sReg i = 0 := by simp [State.sReg, h]
theorem State.pReg_of_ge (s : State) {i : Nat} (h : 8 ≤ i) : s.pReg i = PointReg.infinity := by simp [State.pReg, h]
theorem State.tEntry_of_ge (s : State) {i : Nat} (h : 256 ≤ i) : s.tEntry i = TableEntry.zero := by
  simp [State.tEntry, h]

theorem State.fits_of_check {s : State} (h : s.fitsCheck = true) : s.Fits := by
  simp only [State.fitsCheck, Bool.and_eq_true, Bool.or_eq_true, List.all_eq_true, List.mem_range,
    decide_eq_true_eq] at h
  obtain ⟨⟨⟨⟨⟨⟨⟨hf, hp⟩, ht⟩, hw⟩, ha⟩, hb⟩, hgx⟩, hgy⟩ := h
  have h0 : (0 : Elem).toNat < 2 ^ s.params.regw := by
    rw [show (0 : Elem).toNat = 0 from BitVec.toNat_zero (w := 1024)]; exact Nat.two_pow_pos _
  refine ⟨fun i => ?_, fun i hi => ?_, hw, fun j => ?_, fun j => ?_, fun j hj => ?_, fun k => ?_, fun k hk => ?_,
    fun i => ?_, fun i => ?_, fun i hi => ?_, ha, hb, hgx, hgy⟩
  · by_cases h : i < 16
    · exact (hf i h).1.1.1
    · rw [s.fReg_of_ge (Nat.not_lt.mp h)]; exact h0
  · by_cases h : i < 16
    · exact (hf i h).1.1.2.resolve_left (Nat.not_lt.mpr hi)
    · exact s.fReg_of_ge (Nat.not_lt.mp h)
  · by_cases h : j < 8
    · exact (hp j h).1.1
    · rw [s.pReg_of_ge (Nat.not_lt.mp h)]; exact h0
  · by_cases h : j < 8
    · exact (hp j h).1.2
    · rw [s.pReg_of_ge (Nat.not_lt.mp h)]; exact h0
  · by_cases h : j < 8
    · exact (hp j h).2.resolve_left (Nat.not_lt.mpr hj)
    · exact s.pReg_of_ge (Nat.not_lt.mp h)
  · by_cases h : k < 16
    · exact (hf k h).1.2
    · rw [s.sReg_of_ge (Nat.not_lt.mp h)]; exact h0
  · by_cases h : k < 16
    · exact (hf k h).2.resolve_left (Nat.not_lt.mpr hk)
    · exact s.sReg_of_ge (Nat.not_lt.mp h)
  · by_cases h : i < 256
    · exact (ht i h).1.1
    · rw [s.tEntry_of_ge (Nat.not_lt.mp h)]; exact h0
  · by_cases h : i < 256
    · exact (ht i h).1.2
    · rw [s.tEntry_of_ge (Nat.not_lt.mp h)]; exact h0
  · by_cases h : i < 256
    · exact (ht i h).2.resolve_left (Nat.not_lt.mpr hi)
    · exact s.tEntry_of_ge (Nat.not_lt.mp h)

/-- The whole invariant, checked. -/
def State.invCheck (s : State) : Bool :=
  s.fitsCheck && (!s.status.cfgv || s.cfgOk) && (!s.status.brkv || (s.status.cfgv && s.brickOk)) &&
    (!s.status.busy || (!s.status.done && decide (s.status.err = .none)))

theorem State.inv_of_check {s : State} (h : s.invCheck = true) : s.Inv := by
  simp only [State.invCheck, Bool.and_eq_true, Bool.or_eq_true, Bool.not_eq_true', decide_eq_true_eq] at h
  obtain ⟨⟨⟨h1, h2⟩, h3⟩, h4⟩ := h
  exact ⟨State.fits_of_check h1,
    ⟨fun hc => h2.resolve_left (by simp [hc]), fun hb => h3.resolve_left (by simp [hb])⟩,
    fun hb => h4.resolve_left (by simp [hb])⟩

end Sys2Proof.Machine
end

