-- ==== Sys2Proof/Laws/PerInstr.lean ====
section
/-! SUPPORT. Family ZeroBits: the encoded word of a command has 0 in every bit its format requires to be zero
(30_encoding.md R111), one lemma per constructor. -/

namespace Sys2Proof.Laws.ZeroBits

/-- The must-be-zero bits of the command's format are zero in its word (R111). -/
def Statement (i : Instr) : Prop := encode i &&& i.format.zeroMask = 0#32

theorem nop : Statement .nop := by unfold Statement; decide
theorem cfgchk : Statement .cfgchk := by unfold Statement; decide
theorem zeroize : Statement .zeroize := by unfold Statement; decide
theorem bchk : Statement .bchk := by unfold Statement; decide

/-- A word of format R3. -/
theorem r3 (opc : BitVec 8) (rd ra rb : RegIdx) :
    assemble opc rd ra rb false &&& Format.R3.zeroMask = 0#32 := by
  apply and_eq_zero_of_bits
  intro i hi hm
  rw [getLsbD_assemble]
  interval_cases i <;> simp_all [Format.zeroMask]

/-- A word of format R2. -/
theorem r2 (opc : BitVec 8) (rd ra : RegIdx) : assemble opc rd ra 0 false &&& Format.R2.zeroMask = 0#32 := by
  apply and_eq_zero_of_bits
  intro i hi hm
  rw [getLsbD_assemble]
  interval_cases i <;> simp_all [Format.zeroMask]

/-- A word of format R2S. -/
theorem r2s (opc : BitVec 8) (rd ra : RegIdx) (s : Bool) :
    assemble opc rd ra 0 s &&& Format.R2S.zeroMask = 0#32 := by
  apply and_eq_zero_of_bits
  intro i hi hm
  rw [getLsbD_assemble]
  interval_cases i <;> simp_all [Format.zeroMask]

/-- A word of format RD1. -/
theorem rd1 (opc : BitVec 8) (rd : RegIdx) : assemble opc rd 0 0 false &&& Format.RD1.zeroMask = 0#32 := by
  apply and_eq_zero_of_bits
  intro i hi hm
  rw [getLsbD_assemble]
  interval_cases i <;> simp_all [Format.zeroMask]

/-- A word of format RA1. -/
theorem ra1 (opc : BitVec 8) (ra : RegIdx) : assemble opc 0 ra 0 false &&& Format.RA1.zeroMask = 0#32 := by
  apply and_eq_zero_of_bits
  intro i hi hm
  rw [getLsbD_assemble]
  interval_cases i <;> simp_all [Format.zeroMask]

/-- A word of format RAB. -/
theorem rab (opc : BitVec 8) (ra rb : RegIdx) : assemble opc 0 ra rb false &&& Format.RAB.zeroMask = 0#32 := by
  apply and_eq_zero_of_bits
  intro i hi hm
  rw [getLsbD_assemble]
  interval_cases i <;> simp_all [Format.zeroMask]

theorem fadd (rd ra rb : FReg) : Statement (.fadd rd ra rb) := r3 _ rd ra rb
theorem fmul (rd ra rb : FReg) : Statement (.fmul rd ra rb) := r3 _ rd ra rb
theorem fsqr (rd ra : FReg) : Statement (.fsqr rd ra) := r2 _ rd ra
theorem finv (rd ra : FReg) : Statement (.finv rd ra) := r2 _ rd ra
theorem fclmul (ra rb : FReg) : Statement (.fclmul ra rb) := rab _ ra rb
theorem fred (rd : FReg) : Statement (.fred rd) := rd1 _ rd
theorem pchk (ra : PReg) : Statement (.pchk ra) := ra1 _ ra
theorem pdbl (rd ra : PReg) : Statement (.pdbl rd ra) := r2 _ rd ra
theorem padd (rd ra rb : PReg) : Statement (.padd rd ra rb) := r3 _ rd ra rb
theorem solvey (rd ra : FReg) (sel : Bool) : Statement (.solvey rd ra sel) := r2s _ rd ra sel
theorem pcmp (rd : FReg) (ra : PReg) : Statement (.pcmp rd ra) := r2 _ rd ra
theorem pdec (rd : PReg) (ra : FReg) (sel : Bool) : Statement (.pdec rd ra sel) := r2s _ rd ra sel
theorem bmul (rd : PReg) (ra : SReg) : Statement (.bmul rd ra) := r2 _ rd ra
theorem smul (rd : PReg) (ra : SReg) (rb : PReg) : Statement (.smul rd ra rb) := r3 _ rd ra rb

end Sys2Proof.Laws.ZeroBits
end

