-- ==== Sys2Proof/Tests/Slice0.lean ====
section
/-! SUPPORT. The model's own tests. Expected values are those of the spec: 30_encoding.md R119 and 95_test_vectors.md
(the id of a vector stands before the test); no value was taken from the model. The `witness_` theorems show, for each
statement with hypotheses, states that meet them. -/

namespace Sys2Proof.Tests

set_option Elab.async false

open Sys2Proof.Machine

/-! ### Helpers -/

/-- The default build, at the bus address 0. -/
def build : Params where
  mmax := 571
  wmax := 8
  nf := 16
  np := 8
  ns := 4
  baseIndex := 0
  bounds := by decide

/-- A small build, to reach the index bounds of F. -/
def smallBuild : Params where
  mmax := 163
  wmax := 2
  nf := 4
  np := 2
  ns := 1
  baseIndex := 0
  bounds := by decide

/-- T5's table for W = 2 in entries 0 to 3 (95_test_vectors.md 2.4). -/
def t5Table : Vector TableEntry 256 :=
  (((Vector.replicate 256 TableEntry.zero).set 1 ⟨0x0A, 0x12⟩).set 2 ⟨0x08, 0x17⟩).set 3 ⟨0x1E, 0x0B⟩

/-- T5's configuration (95_test_vectors.md, conventions, and 3.1). -/
def t5Cfg : Cfg where
  m := 5
  ea := 2
  eb := 0
  ec := 0
  w := 2
  l := 5
  a := 1
  b := 1
  gx := 0x0A
  gy := 0x12

/-- Boot(T5), with T[4..255] all zero. -/
def boot : State :=
  { State.resetWith build 0 with
    cmd := 0x40000000
    status := { Status.reset with done := true, cfgv := true, brkv := true }
    cfg := t5Cfg
    table := t5Table }

/-- An affine point register. -/
def pt (x y : Elem) : PointReg := ⟨false, x, y⟩

/-- Boot(T5) with F0, F1, P0, P1, S0 and WIDE loaded. -/
def bench (f0 f1 : Elem) (p0 p1 : PointReg) (s0 : Elem) (w : WideElem) : State :=
  { boot with
    fregs := ((Vector.replicate 16 0).set 0 f0).set 1 f1
    pregs := ((Vector.replicate 8 PointReg.infinity).set 0 p0).set 1 p1
    sregs := (Vector.replicate 16 0).set 0 s0
    wide := w }

/-- The bench of most vectors: F0 = 0x13, F1 = 0x0A, P0 = G, P1 = 2G, S0 = 7, WIDE = 0x3FF. -/
def good : State := bench 0x13 0x0A (pt 10 18) (pt 8 23) 7 0x3FF

/-- Operands at 2^m: not canonical, out of range. -/
def high : State := bench 0x20 0x0A (pt 0x20 1) (pt 8 23) 32 0

/-- Zero operands, points at x = 0 and off the curve. -/
def zeros : State := bench 0 1 (pt 0 1) (pt 10 19) 0 0

/-- The configuration not yet checked. -/
def unchecked : State := { good with status := { good.status with cfgv := false, brkv := false } }

/-- BRKV = 0. -/
def noBrick : State := { good with status := { good.status with brkv := false } }

/-- The small build on T5. -/
def small : State := { boot with params := smallBuild }

/-- A state with a command in flight. -/
def inFlight (w : Word) : State := { good.accept w with inbox := [] }

/-- The state of an outcome, for a look at it. -/
def look {α : Type} (o : Outcome) (g : State → α) : Option α :=
  match o with
  | .next t => some (g t)
  | .fault _ => none
  | .refused _ => none

/-- Fi and STATUS after a command. -/
def lookF (o : Outcome) (i : Nat) : Option (Elem × Word) := look o fun t => (t.fReg i, t.status.word)

/-- Pj and STATUS after a command. -/
def lookP (o : Outcome) (j : Nat) : Option (PointReg × Word) := look o fun t => (t.pReg j, t.status.word)

/-- STATUS after a command. -/
def lookStatus (o : Outcome) : Option Word := look o fun t => t.status.word

/-! ### WellFormed: each check refuses an ill-formed term (R116 (c)) -/

theorem test_wf_refuses_f : (Instr.fadd 4 0 0).wf smallBuild = false ∧ (Instr.fadd 0 4 0).wf smallBuild = false ∧
    (Instr.fmul 0 0 4).wf smallBuild = false ∧ (Instr.fsqr 4 0).wf smallBuild = false ∧
    (Instr.finv 0 4).wf smallBuild = false ∧ (Instr.fclmul 4 0).wf smallBuild = false ∧
    (Instr.fclmul 0 4).wf smallBuild = false ∧ (Instr.fred 4).wf smallBuild = false ∧
    (Instr.solvey 0 4 true).wf smallBuild = false ∧ (Instr.pcmp 4 0).wf smallBuild = false ∧
    (Instr.pdec 0 4 false).wf smallBuild = false := by decide

theorem test_wf_refuses_p : (Instr.pchk 8).wf build = false ∧ (Instr.pdbl 8 0).wf build = false ∧
    (Instr.padd 0 8 0).wf build = false ∧ (Instr.padd 0 0 8).wf build = false ∧ (Instr.pcmp 0 8).wf build = false ∧
    (Instr.pdec 8 0 true).wf build = false ∧ (Instr.bmul 8 0).wf build = false ∧
    (Instr.smul 8 0 0).wf build = false ∧ (Instr.smul 0 0 8).wf build = false := by decide

theorem test_wf_refuses_s : (Instr.bmul 0 4).wf build = false ∧ (Instr.smul 0 4 0).wf build = false := by decide

/-! ### Decode: words written out from R110 and R113, one for every constructor -/

theorem test_decode_control : decode build 0x00000000 = .ok .nop ∧ decode build 0x01000000 = .ok .cfgchk ∧
    decode build 0x02000000 = .ok .zeroize := ⟨rfl, rfl, rfl⟩

theorem test_decode_field :
    decode build (0b00010000_0010_0000_0001_000000000000#32) = .ok (.fadd 2 0 1) ∧
    decode build 0x11201000 = .ok (.fmul 2 0 1) ∧ decode build 0x12100000 = .ok (.fsqr 1 0) ∧
    decode build 0x13320000 = .ok (.finv 3 2) ∧ decode build 0x14045000 = .ok (.fclmul 4 5) ∧
    decode build 0x15600000 = .ok (.fred 6) := ⟨rfl, rfl, rfl, rfl, rfl, rfl⟩

theorem test_decode_curve :
    decode build 0x20010000 = .ok (.pchk 1) ∧
    decode build (0b00100001_0001_0000_0000_000000000000#32) = .ok (.pdbl 1 0) ∧
    decode build 0x22201000 = .ok (.padd 2 0 1) ∧ decode build 0x23100001 = .ok (.solvey 1 0 true) ∧
    decode build 0x23100000 = .ok (.solvey 1 0 false) := ⟨rfl, rfl, rfl, rfl, rfl⟩

theorem test_decode_codec : decode build (0b00110000_0001_0000_0000_000000000000#32) = .ok (.pcmp 1 0) ∧
    decode build 0x31200001 = .ok (.pdec 2 0 true) := ⟨rfl, rfl⟩

theorem test_decode_brick : decode build 0x40000000 = .ok .bchk ∧
    decode build (0b01000001_0001_0001_0000_000000000000#32) = .ok (.bmul 1 1) := ⟨rfl, rfl⟩

theorem test_decode_scalar : decode build (0b01010000_0011_0001_0010_000000000000#32) = .ok (.smul 3 1 2) := rfl

/-- V-E1 to V-E7, V-E11, V-E12: the illegal words, by the case of R116. -/
theorem test_decode_rejects :
    decode build 0x03000000 = .error .unassignedOpcode ∧ decode build 0x00000001 = .error .reservedBits ∧
    decode build 0x10201001 = .error .reservedBits ∧ decode build 0x10201010 = .error .reservedBits ∧
    decode build 0x41040000 = .error .indexOutOfRange ∧ decode build 0x21800000 = .error .indexOutOfRange ∧
    decode build 0x14145000 = .error .reservedBits ∧ decode build 0xFF000000 = .error .unassignedOpcode ∧
    decode build 0x51000000 = .error .unassignedOpcode := ⟨rfl, rfl, rfl, rfl, rfl, rfl, rfl, rfl, rfl⟩

/-- The words of R119, encoded. -/
theorem test_encode : encode (.fmul 2 0 1) = 0x11201000 ∧ encode (.smul 3 1 2) = 0x50312000 ∧
    encode (.pdec 2 0 true) = 0x31200001 ∧ encode (.fclmul 4 5) = 0x14045000 := by decide

/-! ### The arithmetic: whole tables of the spec -/

/-- Table T-A of 95_test_vectors.md 2.1: finv, fsqr, fsqrt and ftr of 1 to 31. -/
theorem test_field_table :
    (List.range 31).map (fun u => finv t5Cfg (u + 1)) =
      [1, 18, 28, 9, 23, 14, 12, 22, 4, 25, 16, 7, 15, 6, 13, 11, 24, 2, 29, 30, 26, 8, 5, 17, 10, 21, 31, 3, 19, 20,
        27] ∧
    (List.range 31).map (fun u => fsqr t5Cfg (u + 1)) =
      [1, 4, 5, 16, 17, 20, 21, 10, 11, 14, 15, 26, 27, 30, 31, 13, 12, 9, 8, 29, 28, 25, 24, 7, 6, 3, 2, 23, 22, 19,
        18] ∧
    (List.range 31).map (fun u => fsqrt t5Cfg (u + 1)) =
      [1, 27, 26, 2, 3, 25, 24, 19, 18, 8, 9, 17, 16, 10, 11, 4, 5, 31, 30, 6, 7, 29, 28, 23, 22, 12, 13, 21, 20, 14,
        15] ∧
    (List.range 31).map (fun u => ftr t5Cfg (u + 1)) =
      [1, 0, 1, 0, 1, 0, 1, 1, 0, 1, 0, 1, 0, 1, 0, 0, 1, 0, 1, 0, 1, 0, 1, 1, 0, 1, 0, 1, 0, 1, 0] := by
  decide +kernel

/-- Table T-D of 95_test_vectors.md 2.2, selector 0, and the even field of m = 4, selectors 0 and 1. -/
theorem test_solver_tables :
    (List.range 32).filterMap (fun x => (ecsolve t5Cfg x false).map fun y => (x, y)) =
      [(0, 1), (6, 22), (8, 31), (10, 18), (14, 7), (19, 15), (20, 13), (22, 2), (25, 29), (29, 27), (30, 11)] ∧
    (List.range 15).filterMap (fun x => (ecsolve { t5Cfg with m := 4, ea := 1 } (x + 1) false).map fun y => (x + 1, y)) =
      [(1, 6), (6, 7), (7, 1), (8, 10), (10, 15), (12, 4), (15, 12)] ∧
    (List.range 15).filterMap (fun x => (ecsolve { t5Cfg with m := 4, ea := 1 } (x + 1) true).map fun y => (x + 1, y)) =
      [(1, 7), (6, 1), (7, 6), (8, 2), (10, 5), (12, 8), (15, 3)] := by decide +kernel

/-- Table T-C of 95_test_vectors.md 2.2: k·G for k = 0 to 11, by the double-and-add loop and by the windowed loop. -/
theorem test_multiples_of_G :
    (List.range 12).map (fun k => scalarMul t5Cfg k (.aff 10 18)) =
      [.O, .aff 10 18, .aff 8 23, .aff 30 11, .aff 19 15, .aff 14 9, .aff 14 7, .aff 19 28, .aff 30 21, .aff 8 31,
        .aff 10 24, .O] ∧
    (List.range 12).map (fun k => windowMul t5Cfg 2 5 k boot.tpt) =
      [.O, .aff 10 18, .aff 8 23, .aff 30 11, .aff 19 15, .aff 14 9, .aff 14 7, .aff 19 28, .aff 30 21, .aff 8 31,
        .aff 10 24, .O] := by decide +kernel

/-- B-163 (95_test_vectors.md 2.1): FINV u, and a pentanomial remainder (FINV 2). -/
theorem test_field_b163 :
    finv { t5Cfg with m := 163, ea := 7, eb := 6, ec := 3 } 0x0A6A3A4506513270E269E0D37F2A74DE452E6B438 =
      0x2626EA4A4833B2CA96F6D879C0CA60261494E0140 ∧
    finv { t5Cfg with m := 163, ea := 7, eb := 6, ec := 3 } 2 = 0x40000000000000000000000000000000000000064 := by
  decide +kernel

/-! ### Commands: at most two vectors each -/

/-- V-X1. -/
theorem test_nop : lookStatus (exec .nop State.reset) = some 0x02 := by decide +kernel

/-- V-X3, V-X6, V-X8. -/
theorem test_cfgchk_accepts :
    lookStatus (exec .cfgchk { State.reset with cfg := t5Cfg }) = some 0x22 ∧
    lookStatus (exec .cfgchk { State.reset with cfg := { t5Cfg with m := 4, ea := 3 } }) = some 0x22 ∧
    lookStatus (exec .cfgchk { State.reset with cfg := { t5Cfg with m := 8, ea := 4, eb := 3, ec := 1 } }) = some 0x22 :=
  by decide +kernel

/-- V-X15, V-X5, V-X10, V-X12, V-X14. -/
theorem test_cfgchk_rejects :
    lookStatus (exec .cfgchk { boot with cfg := { t5Cfg with ea := 1 } }) = some 0x102 ∧
    lookStatus (exec .cfgchk { State.reset with cfg := { t5Cfg with m := 4 } }) = some 0x102 ∧
    lookStatus (exec .cfgchk { State.reset with cfg := { t5Cfg with eb := 1 } }) = some 0x102 ∧
    lookStatus (exec .cfgchk { State.reset with cfg := { t5Cfg with a := 0x20 } }) = some 0x102 ∧
    lookStatus (exec .cfgchk { State.reset with cfg := { t5Cfg with m := 8, ea := 3, eb := 4, ec := 1 } }) =
      some 0x102 := by decide +kernel

/-- V-X16. -/
theorem test_zeroize : look (exec .zeroize (good.setSel true)) (fun t => (t.fReg 0, t.wide, t.sReg 0, t.pinfWord,
    t.status.word)) = some (0, 0, 0, 0xFF, 0x62) := by decide +kernel

/-- V-F1. -/
theorem test_fadd : lookF (exec (.fadd 2 0 1) good) 2 = some (0x19, 0x62) := by decide +kernel

/-- V-F17. -/
theorem test_fadd_not_canonical : lookF (exec (.fadd 2 0 1) high) 2 = some (0, 0x862) := by decide +kernel

/-- V-F4. -/
theorem test_fmul : lookF (exec (.fmul 2 0 1) good) 2 = some (0x0F, 0x62) := by decide +kernel

/-- V-F19. -/
theorem test_fmul_unconfigured : lookF (exec (.fmul 2 0 1) State.reset) 2 = some (0, 0x102) := by decide +kernel

/-- V-F7. -/
theorem test_fsqr : lookF (exec (.fsqr 1 0) (bench 0x1F 0 (pt 0 0) (pt 0 0) 0 0)) 1 = some (0x12, 0x62) := by
  decide +kernel

/-- V-F11: the source is also the destination. -/
theorem test_finv : lookF (exec (.finv 0 0) good) 0 = some (0x1D, 0x62) := by decide +kernel

/-- V-F10, V-F18. -/
theorem test_finv_errors : lookF (exec (.finv 1 0) zeros) 1 = some (1, 0x662) ∧
    lookStatus (exec (.finv 1 0) high) = some 0x862 := by decide +kernel

/-- V-F12. -/
theorem test_fclmul : look (exec (.fclmul 0 1) good) (fun t => (t.wide, t.status.word)) = some (0xBE, 0x62) := by
  decide +kernel

/-- V-F14, V-F15. -/
theorem test_fred : lookF (exec (.fred 6) good) 6 = some (0x13, 0x62) ∧
    lookF (exec (.fred 6) (good.setWide 0x10000000000)) 6 = some (0x1A, 0x62) := by decide +kernel

/-- V-P1, V-P4. -/
theorem test_pchk : lookStatus (exec (.pchk 0) good) = some 0x6A ∧ lookStatus (exec (.pchk 0) zeros) = some 0x6A := by
  decide +kernel

/-- V-P3, V-P6. -/
theorem test_pchk_infinity : lookStatus (exec (.pchk 0) (good.setPReg 0 ⟨true, 0xFFFFFFFF, 0⟩)) = some 0x62 ∧
    lookStatus (exec (.pchk 0) high) = some 0x862 := by decide +kernel

/-- V-P7, V-P10. -/
theorem test_pdbl : lookP (exec (.pdbl 1 0) good) 1 = some (pt 8 23, 0x62) ∧
    lookP (exec (.pdbl 1 0) (good.setPReg 0 (pt 3 4))) 1 = some (pt 10 9, 0x62) := by decide +kernel

/-- V-P8. -/
theorem test_pdbl_order_two : lookP (exec (.pdbl 1 0) zeros) 1 = some (PointReg.infinity, 0x62) := by decide +kernel

/-- V-P12, V-P17. -/
theorem test_padd : lookP (exec (.padd 2 0 1) good) 2 = some (pt 30 11, 0x62) ∧
    lookP (exec (.padd 2 0 1) (bench 0 0 (pt 3 4) (pt 5 6) 0 0)) 2 = some (pt 12 13, 0x62) := by decide +kernel

/-- V-P13, V-P14, V-P15. -/
theorem test_padd_cases : lookP (exec (.padd 2 0 1) (good.setPReg 1 (pt 10 24))) 2 = some (PointReg.infinity, 0x62) ∧
    lookP (exec (.padd 2 0 0) good) 2 = some (pt 8 23, 0x62) ∧
    lookP (exec (.padd 2 3 1) (good.setPReg 1 (pt 14 9))) 2 = some (pt 14 9, 0x62) := by decide +kernel

/-- V-P21, V-P22. -/
theorem test_solvey : lookF (exec (.solvey 1 0 true) (good.setFReg 0 0x0A)) 1 = some (0x18, 0x62) ∧
    lookF (exec (.solvey 1 0 false) (good.setFReg 0 0)) 1 = some (1, 0x62) := by decide +kernel

/-- V-P23, V-P24. -/
theorem test_solvey_fails : lookStatus (exec (.solvey 1 0 true) (good.setFReg 0 0)) = some 0x362 ∧
    lookStatus (exec (.solvey 1 0 false) (good.setFReg 0 1)) = some 0x362 := by decide +kernel

/-- V-C1, V-C2, V-C10. -/
theorem test_pcmp : lookF (exec (.pcmp 1 0) good) 1 = some (0x0A, 0x62) ∧
    lookF (exec (.pcmp 2 1) good) 2 = some (0x08, 0x72) ∧ lookF (exec (.pcmp 2 1) zeros) 2 = some (0x0A, 0x72) := by
  decide +kernel

/-- V-C3. -/
theorem test_pcmp_infinity : lookF (exec (.pcmp 1 5) good) 1 = some (0, 0x72) := by decide +kernel

/-- V-C5, V-C6. -/
theorem test_pdec : lookP (exec (.pdec 1 0 true) (good.setFReg 0 8)) 1 = some (pt 8 23, 0x62) ∧
    lookP (exec (.pdec 1 0 false) (good.setFReg 0 1)) 1 = some (pt 8 23, 0x362) := by decide +kernel

/-- V-C7, V-C8. -/
theorem test_pdec_zero : lookP (exec (.pdec 1 0 true) zeros) 1 = some (PointReg.infinity, 0x62) ∧
    lookP (exec (.pdec 1 0 false) zeros) 1 = some (pt 0 1, 0x62) := by decide +kernel

/-- V-B1, V-B2. -/
theorem test_bchk : lookStatus (exec .bchk noBrick) = some 0x62 ∧
    lookStatus (exec .bchk (boot.setTEntry 2 ⟨8, 22⟩)) = some 0x222 := by decide +kernel

/-- V-B3, V-B4, V-B4a, V-B4b. -/
theorem test_bchk_rejects : lookStatus (exec .bchk { boot with cfg := { t5Cfg with w := 0 } }) = some 0x222 ∧
    lookStatus (exec .bchk { boot with cfg := { t5Cfg with l := 6 } }) = some 0x222 ∧
    lookStatus (exec .bchk { boot with cfg := { t5Cfg with gy := 0x13 } }) = some 0x222 ∧
    lookStatus (exec .bchk (boot.setTEntry 0 ⟨0, 1⟩)) = some 0x222 := by decide +kernel

/-- V-B5 at k = 7, V-B9. -/
theorem test_bmul : lookP (exec (.bmul 0 0) good) 0 = some (pt 19 28, 0x62) ∧
    lookP (exec (.bmul 2 0) high) 2 = some (PointReg.infinity, 0x562) := by decide +kernel

/-- V-B10. -/
theorem test_bmul_no_table : lookStatus (exec (.bmul 0 0) noBrick) = some 0x222 := by decide +kernel

/-- V-S1, V-S12. -/
theorem test_smul : lookP (exec (.smul 2 0 0) good) 2 = some (pt 19 28, 0x62) ∧
    lookP (exec (.smul 0 0 0) (good.setSReg 0 31)) 0 = some (pt 8 31, 0x62) := by decide +kernel

/-- V-S5, V-S8, V-S9. -/
theorem test_smul_errors : lookStatus (exec (.smul 2 0 1) zeros) = some 0x462 ∧
    lookStatus (exec (.smul 2 0 5) high) = some 0x562 ∧ lookStatus (exec (.smul 2 0 0) high) = some 0x862 := by
  decide +kernel

/-! ### The host's bus and the step -/

/-- The host's next access. -/
def bus (s : State) (off width : Nat) (k : AccessKind) : State :=
  { s with inbox := [.access ⟨s.params.base + off, width, k⟩] }

/-- What the bus answers. -/
def ask (s : State) (off : Nat) : Option Answer := look (Sys2Proof.Machine.step (bus s off 32 .read)) State.answer

/-- V-H1, V-H2, V-H3. -/
theorem test_reads_after_reset :
    ask (State.resetWith build 0) 0x000 = some (.data 0x137F823B) ∧
    ask (State.resetWith build 0) 0x008 = some (.data 0) ∧
    ask (State.resetWith build 0) 0x030 = some (.data 0xFF) := by decide +kernel

/-- V-H4, V-H5, V-H6, V-H7, V-H8. -/
theorem test_bus_errors :
    (∀ off ∈ [0x002, 0x028, 0x034, 0x300, 0xD00, 0x448, 0x1A00], ask boot off = none) ∧
    look (Sys2Proof.Machine.step (bus boot 0x400 16 .read)) State.answer = none := by decide +kernel

/-- V-H10: the F0 write is dropped, LOST = 1. -/
theorem test_dropped_write :
    look (Sys2Proof.Machine.step (bus (inFlight 0x10201000) 0x400 32 (.write 5)))
      (fun t => (t.fReg 0, t.status.word)) = some (0x13, 0x65) := by decide +kernel

/-- V-H13, then V-H11: CMD reads back, and W1C of DONE. -/
theorem test_cmd_and_w1c :
    look (Sys2Proof.Machine.step (inFlight 0x41000000)) (fun t => (t.cmd, t.status.word, t.pReg 0)) =
      some (0x41000000, 0x62, pt 19 28) ∧
    look (Sys2Proof.Machine.step (bus { good with ie := true } 0x008 32 (.write 2)))
      (fun t => (t.status.done, t.irq)) = some (false, false) := by decide +kernel

/-- V-H14, V-B11. -/
theorem test_pinf_and_same_value :
    look (Sys2Proof.Machine.step (bus boot 0x030 32 (.write 0xFFFFFF00))) State.pinfWord = some 0 ∧
    look (Sys2Proof.Machine.step (bus boot 0x024 32 (.write 5))) (fun t => (t.cfg, t.status.word)) =
      some (t5Cfg, 0x22) := by decide +kernel

/-- V-E1 and V-E8: an unassigned opcode, before the configuration is looked at. -/
theorem test_illegal_word : lookStatus (Sys2Proof.Machine.step (State.reset.withFetchWord 32 0x03000000)) = some 0x702 ∧
    lookStatus (Sys2Proof.Machine.step (State.reset.withFetchWord 32 0x10201000)) = some 0x102 := by decide +kernel

/-! ### Witnesses: states and operands that meet the hypotheses of the statements -/

theorem good_inv : good.Inv := State.inv_of_check (by decide +kernel)
theorem high_inv : high.Inv := State.inv_of_check (by decide +kernel)
theorem zeros_inv : zeros.Inv := State.inv_of_check (by decide +kernel)
theorem unchecked_inv : unchecked.Inv := State.inv_of_check (by decide +kernel)
theorem noBrick_inv : noBrick.Inv := State.inv_of_check (by decide +kernel)
theorem small_inv : small.Inv := State.inv_of_check (by decide +kernel)

/-- Invariant and gate of one command on the bench. -/
theorem gate_of {s : State} {i : Instr} (hw : i.wf s.params = true) (hc : s.status.cfgv = true) : PassesGate i s :=
  ⟨hw, hc⟩

theorem witness_DecodeEncodeRoundTrip : (Instr.smul 7 3 7).wf build = true := by decide

theorem witness_DecodedWordIsItsEncoding : decode build 0x50737000 = .ok (.smul 7 3 7) := rfl

theorem witness_StepRunsDecodedCommand : (inFlight 0x50737000).status.busy = true ∧
    fetch (inFlight 0x50737000) = .ok (.smul 7 3 7) ∧ (inFlight 0x50737000).inbox = [] ∧
    { inFlight 0x50737000 with inbox := [.engine] }.inbox = .engine :: [] ∧ good.status.busy = false ∧ { good with inbox := [.engine] }.inbox = .engine :: [] :=
  ⟨rfl, rfl, rfl, rfl, rfl, rfl⟩

theorem witness_IllegalWordCompletesIllegal :
    decodeOpcode (inFlight 0xFF000000).cmd = none ∧
    (decodeOpcode (inFlight 0x00000001).cmd = some .nop ∧
      (inFlight 0x00000001).cmd &&& Instr.nop.format.zeroMask ≠ 0#32) ∧
    (decodeOpcode (inFlight 0x21800000).cmd = some (.pdbl 8 0) ∧
      (Instr.pdbl 8 0).wf (inFlight 0x21800000).params = false) ∧
    (inFlight 0xFF000000).status.busy = true ∧ (inFlight 0xFF000000).inbox = [] ∧
    (good.withFetchWord 32 0xFF000000).status.busy = true ∧
    decodeOpcode (good.withFetchWord 32 0xFF000000).cmd = none ∧
    (good.withFetchWord 32 0xFF000000).inbox = .engine :: [] :=
  ⟨rfl, ⟨rfl, by decide⟩, ⟨rfl, by decide⟩, rfl, rfl, rfl, rfl, rfl⟩

theorem witness_ErrorWritesNoDestination :
    (∃ t, exec .cfgchk { boot with cfg := { t5Cfg with b := 0 } } = .next t ∧
      t.status.err = .invalidCurveParameters) ∧
    (∃ t, exec .bchk (boot.setTEntry 0 ⟨0, 1⟩) = .next t ∧ t.status.err = .invalidTable) ∧
    (∃ t, exec (.finv 1 0) zeros = .next t ∧ t.status.err = .divisionByZero) :=
  ⟨⟨_, rfl, by decide +kernel⟩, ⟨_, rfl, by decide +kernel⟩, ⟨_, rfl, by decide +kernel⟩⟩

theorem witness_FirstFailingCheckIsReported :
    (Instr.fadd 4 0 0).wf small.params = false ∧
    ((Instr.fadd 3 3 3).wf unchecked.params = true ∧ unchecked.status.cfgv = false) ∧
    ((Instr.bmul 7 3).wf noBrick.params = true ∧ noBrick.status.cfgv = true ∧ noBrick.status.brkv = false) ∧
    ((Instr.fadd 0 1 0).wf high.params = true ∧ high.status.cfgv = true ∧ high.canonF 0 = false) ∧
    (high.status.brkv = true ∧ 2 ^ high.cfg.combLen ≤ high.sVal 0) ∧
    ((Instr.smul 7 0 1).wf high.params = true ∧ high.canonP 1 = true ∧ 2 ^ high.cfg.deg ≤ high.sVal 0) ∧
    ((Instr.smul 7 0 1).wf zeros.params = true ∧ zeros.canonP 1 = true ∧ zeros.sVal 0 < 2 ^ zeros.cfg.deg ∧
      oncurve zeros.cfg (zeros.ptVal 1) = false) ∧
    ((Instr.finv 15 0).wf zeros.params = true ∧ zeros.canonF 0 = true ∧ zeros.fVal 0 = 0) ∧
    ((Instr.solvey 15 0 true).wf zeros.params = true ∧ ecsolve zeros.cfg (zeros.fVal 0) true = none) ∧
    ((Instr.pdec 7 1 false).wf zeros.params = true ∧ zeros.canonF 1 = true ∧
      decompress zeros.cfg (zeros.fVal 1) false = none) := by decide +kernel

theorem witness_CommandsKeepConfiguration : ∃ t, exec .zeroize good = .next t := ⟨_, rfl⟩

theorem witness_CommandsKeepConfiguration_step :
    ∃ t, Sys2Proof.Machine.step (bus good 0x010 32 (.write 6)) = .next t ∧ t.cfg ≠ good.cfg :=
  ⟨_, rfl, by decide +kernel⟩

theorem witness_FlagSelWideScalarWriters :
    (∃ t, exec (.pchk 0) good = .next t ∧ t.status.flag ≠ good.status.flag) ∧
    (∃ t, exec (.pcmp 2 1) good = .next t ∧ t.status.sel ≠ good.status.sel) ∧
    (∃ t, exec (.fclmul 0 1) good = .next t ∧ t.wide ≠ good.wide) ∧
    (∃ t, exec .zeroize good = .next t ∧ t.sReg 0 ≠ good.sReg 0) :=
  ⟨⟨_, rfl, by decide +kernel⟩, ⟨_, rfl, by decide +kernel⟩, ⟨_, rfl, by decide +kernel⟩, ⟨_, rfl, by decide +kernel⟩⟩

theorem witness_ValidityBitsAreEarned :
    (∃ t, Sys2Proof.Machine.step { unchecked.accept 0x01000000 with inbox := [] } = .next t ∧
      unchecked.status.cfgv = false ∧ t.status.cfgv = true) ∧
    (∃ t, Sys2Proof.Machine.step { noBrick.accept 0x40000000 with inbox := [] } = .next t ∧
      noBrick.status.brkv = false ∧ t.status.brkv = true) :=
  ⟨⟨_, rfl, rfl, by decide +kernel⟩, ⟨_, rfl, rfl, by decide +kernel⟩⟩

theorem inFlight_inv : (inFlight 0x50010000).Inv := State.inv_of_check (by decide +kernel)

theorem witness_StepKeepsInvariant :
    (inFlight 0x50010000).Inv ∧ ∃ t, Sys2Proof.Machine.step (inFlight 0x50010000) = .next t := ⟨inFlight_inv, _, rfl⟩

/-- The gate clauses of the commands: an index at its bound, and CFGV = 0. -/
theorem witness_gate_errors :
    ((Instr.fadd 4 0 0).wf small.params = false ∧ (Instr.fmul 0 4 0).wf small.params = false ∧
      (Instr.fsqr 0 4).wf small.params = false ∧ (Instr.finv 4 0).wf small.params = false ∧
      (Instr.fclmul 0 4).wf small.params = false ∧ (Instr.fred 4).wf small.params = false ∧
      (Instr.solvey 4 0 false).wf small.params = false ∧ (Instr.pcmp 4 0).wf small.params = false ∧
      (Instr.pdec 2 0 true).wf small.params = false ∧ (Instr.pchk 2).wf small.params = false ∧
      (Instr.pdbl 0 2).wf small.params = false ∧ (Instr.padd 0 0 2).wf small.params = false ∧
      (Instr.bmul 0 1).wf small.params = false ∧ (Instr.smul 0 1 0).wf small.params = false) ∧
    unchecked.status.cfgv = false ∧
    ((Instr.fadd 15 15 15).wf unchecked.params = true ∧ (Instr.fmul 15 15 15).wf unchecked.params = true ∧
      (Instr.fsqr 15 15).wf unchecked.params = true ∧ (Instr.finv 15 15).wf unchecked.params = true ∧
      (Instr.fclmul 15 15).wf unchecked.params = true ∧ (Instr.fred 15).wf unchecked.params = true ∧
      (Instr.pchk 7).wf unchecked.params = true ∧ (Instr.pdbl 7 7).wf unchecked.params = true ∧
      (Instr.padd 7 7 7).wf unchecked.params = true ∧ (Instr.solvey 15 15 true).wf unchecked.params = true ∧
      (Instr.pcmp 15 7).wf unchecked.params = true ∧ (Instr.pdec 7 15 true).wf unchecked.params = true ∧
      Instr.bchk.wf unchecked.params = true ∧ (Instr.bmul 7 3).wf unchecked.params = true ∧
      (Instr.smul 7 3 7).wf unchecked.params = true) := by decide

theorem witness_FaddRule : PassesGate (.fadd 15 0 1) good ∧ good.canonF 0 = true ∧ good.canonF 1 = true ∧
    PassesGate (.fadd 15 0 1) high ∧ (high.canonF 0 && high.canonF 1) = false :=
  ⟨gate_of (by decide) rfl, by decide +kernel, by decide +kernel, gate_of (by decide) rfl, by decide +kernel⟩

theorem witness_FmulRule : good.Inv ∧ PassesGate (.fmul 15 0 1) good ∧ good.canonF 0 = true ∧ good.canonF 1 = true ∧
    high.Inv ∧ PassesGate (.fmul 15 0 1) high ∧ (high.canonF 0 && high.canonF 1) = false :=
  ⟨good_inv, gate_of (by decide) rfl, by decide +kernel, by decide +kernel, high_inv, gate_of (by decide) rfl,
    by decide +kernel⟩

theorem witness_FsqrRule : good.Inv ∧ PassesGate (.fsqr 15 0) good ∧ good.canonF 0 = true ∧
    high.Inv ∧ PassesGate (.fsqr 15 0) high ∧ high.canonF 0 = false :=
  ⟨good_inv, gate_of (by decide) rfl, by decide +kernel, high_inv, gate_of (by decide) rfl, by decide +kernel⟩

theorem witness_FinvRule : good.Inv ∧ PassesGate (.finv 15 0) good ∧ good.canonF 0 = true ∧ good.fVal 0 ≠ 0 ∧
    high.Inv ∧ PassesGate (.finv 15 0) high ∧ high.canonF 0 = false ∧
    zeros.Inv ∧ PassesGate (.finv 15 0) zeros ∧ zeros.canonF 0 = true ∧ zeros.fVal 0 = 0 :=
  ⟨good_inv, gate_of (by decide) rfl, by decide +kernel, by decide +kernel, high_inv, gate_of (by decide) rfl,
    by decide +kernel, zeros_inv, gate_of (by decide) rfl, by decide +kernel, by decide +kernel⟩

theorem witness_FclmulRule : good.Inv ∧ PassesGate (.fclmul 0 1) good ∧ good.canonF 0 = true ∧ good.canonF 1 = true ∧
    high.Inv ∧ PassesGate (.fclmul 0 1) high ∧ (high.canonF 0 && high.canonF 1) = false :=
  ⟨good_inv, gate_of (by decide) rfl, by decide +kernel, by decide +kernel, high_inv, gate_of (by decide) rfl,
    by decide +kernel⟩

theorem witness_FredRule : good.Inv ∧ PassesGate (.fred 15) good := ⟨good_inv, gate_of (by decide) rfl⟩

theorem witness_FclmulThenFredIsFmul : good.Inv ∧ PassesGate (.fmul 15 0 1) good ∧ good.canonF 0 = true ∧
    good.canonF 1 = true := ⟨good_inv, gate_of (by decide) rfl, by decide +kernel, by decide +kernel⟩

theorem witness_FieldLaws : good.Inv ∧ good.status.cfgv = true ∧ 0x1F < 2 ^ good.cfg.deg :=
  ⟨good_inv, rfl, by decide⟩

theorem witness_ShiftXorReductionIsRemainder : polyShapeOk t5Cfg = true ∧
    polyShapeOk { t5Cfg with m := 8, ea := 4, eb := 3, ec := 1 } = true := by decide

theorem witness_PchkRule : PassesGate (.pchk 0) good ∧ good.canonP 0 = true ∧ PassesGate (.pchk 0) high ∧
    high.canonP 0 = false ∧ good.canonP 7 = true :=
  ⟨gate_of (by decide) rfl, by decide +kernel, gate_of (by decide) rfl, by decide +kernel, by decide +kernel⟩

theorem witness_PdblRule : good.Inv ∧ PassesGate (.pdbl 7 0) good ∧ good.canonP 0 = true ∧
    high.Inv ∧ PassesGate (.pdbl 7 0) high ∧ high.canonP 0 = false :=
  ⟨good_inv, gate_of (by decide) rfl, by decide +kernel, high_inv, gate_of (by decide) rfl, by decide +kernel⟩

theorem witness_PaddRule : good.Inv ∧ PassesGate (.padd 7 0 1) good ∧ good.canonP 0 = true ∧ good.canonP 1 = true ∧
    high.Inv ∧ PassesGate (.padd 7 0 1) high ∧ (high.canonP 0 && high.canonP 1) = false :=
  ⟨good_inv, gate_of (by decide) rfl, by decide +kernel, by decide +kernel, high_inv, gate_of (by decide) rfl,
    by decide +kernel⟩

theorem witness_AdditionCommutes : good.Inv ∧ good.status.cfgv = true ∧ ptCanon good.cfg (.aff 3 4) = true ∧
    ptCanon good.cfg (.aff 31 31) = true := ⟨good_inv, rfl, by decide +kernel, by decide +kernel⟩

/-- x = 1 has no point on T5: β = 1 (Table T-D). -/
theorem solverFails_one (sel : Bool) : SolverFails t5Cfg 1 sel :=
  ⟨1, by decide, by decide +kernel, by decide +kernel⟩

/-- x = 0x13 has points on T5. -/
theorem not_solverFails_nineteen (sel : Bool) : ¬SolverFails t5Cfg 0x13 sel := by
  have h : ∀ b : Fin 32, fmul t5Cfg (fsqr t5Cfg 0x13) (fadd (fadd b.val 0x13) t5Cfg.aVal) = t5Cfg.bVal →
      ftr t5Cfg b.val ≠ 1 := by decide +kernel
  rintro ⟨b, h1, h2, h3⟩
  exact h ⟨b, h1⟩ h2 h3

theorem good_solvable (sel : Bool) : ¬SolverFails good.cfg (good.fVal 0) sel := by
  rw [show good.fVal 0 = 0x13 by decide +kernel]
  exact not_solverFails_nineteen sel

theorem zeros_unsolvable : zeros.fVal 1 ≠ 0 ∧ SolverFails zeros.cfg (zeros.fVal 1) true := by
  rw [show zeros.fVal 1 = 1 by decide +kernel]
  exact ⟨by decide, solverFails_one true⟩

theorem zeros_fVal : zeros.fVal 0 = 0 := by decide +kernel

theorem witness_SolveyRule : (good.Inv ∧ PassesGate (.solvey 15 0 true) good ∧ good.canonF 0 = true ∧
      ¬SolverFails good.cfg (good.fVal 0) true) ∧
    (high.Inv ∧ PassesGate (.solvey 15 0 true) high ∧ high.canonF 0 = false) ∧
    (zeros.Inv ∧ PassesGate (.solvey 15 1 true) zeros ∧ zeros.canonF 1 = true ∧ zeros.fVal 1 ≠ 0 ∧
      SolverFails zeros.cfg (zeros.fVal 1) true) ∧
    (zeros.canonF 0 = true ∧ SolverFails zeros.cfg (zeros.fVal 0) true ∧
      ¬SolverFails zeros.cfg (zeros.fVal 0) false) :=
  ⟨⟨good_inv, gate_of (by decide) rfl, by decide +kernel, good_solvable true⟩,
    ⟨high_inv, gate_of (by decide) rfl, by decide +kernel⟩,
    ⟨zeros_inv, gate_of (by decide) rfl, by decide +kernel, zeros_unsolvable⟩,
    ⟨by decide +kernel, by rw [zeros_fVal]; rfl, by rw [zeros_fVal]; exact fun h => Bool.noConfusion h⟩⟩

theorem witness_QuadraticRoots : good.Inv ∧ good.status.cfgv = true ∧ ftr good.cfg 0x0D = 0 ∧ ftr good.cfg 1 = 1 ∧
    0x1F < 2 ^ good.cfg.deg := ⟨good_inv, rfl, by decide +kernel, by decide +kernel, by decide⟩

theorem witness_PcmpRule : good.Inv ∧ PassesGate (.pcmp 15 0) good ∧ good.canonP 0 = true ∧
    good.ptVal 0 = .aff 10 18 ∧ good.canonP 7 = true ∧ good.ptVal 7 = .O ∧
    zeros.Inv ∧ zeros.ptVal 0 = .aff 0 1 ∧
    high.Inv ∧ PassesGate (.pcmp 15 0) high ∧ high.canonP 0 = false :=
  ⟨good_inv, gate_of (by decide) rfl, by decide +kernel, by decide +kernel, by decide +kernel, by decide +kernel,
    zeros_inv, by decide +kernel, high_inv, gate_of (by decide) rfl, by decide +kernel⟩

theorem witness_PdecRule : (good.Inv ∧ PassesGate (.pdec 7 0 true) good ∧ good.canonF 0 = true ∧
      ¬SolverFails good.cfg (good.fVal 0) true) ∧
    (high.Inv ∧ PassesGate (.pdec 7 0 true) high ∧ high.canonF 0 = false) ∧
    (zeros.Inv ∧ PassesGate (.pdec 7 1 true) zeros ∧ zeros.canonF 1 = true ∧ zeros.fVal 1 ≠ 0 ∧
      SolverFails zeros.cfg (zeros.fVal 1) true) ∧
    (PassesGate (.pdec 7 0 true) zeros ∧ zeros.fVal 0 = 0) :=
  ⟨⟨good_inv, gate_of (by decide) rfl, by decide +kernel, good_solvable true⟩,
    ⟨high_inv, gate_of (by decide) rfl, by decide +kernel⟩,
    ⟨zeros_inv, gate_of (by decide) rfl, by decide +kernel, zeros_unsolvable⟩,
    ⟨gate_of (by decide) rfl, by decide +kernel⟩⟩

theorem witness_CompressionRoundTrip : good.Inv ∧ good.status.cfgv = true ∧ good.params.fOk 15 = true ∧
    good.params.pOk 0 = true ∧ good.params.pOk 7 = true ∧ good.canonP 0 = true ∧
    oncurve good.cfg (good.ptVal 0) = true ∧ good.ptVal 7 = .O :=
  ⟨good_inv, rfl, by decide, by decide, by decide, by decide +kernel, by decide +kernel, by decide +kernel⟩

theorem good_tableMatches : TableMatches good := by
  refine ⟨by decide, by decide, by decide +kernel, by decide +kernel, by decide +kernel, by decide +kernel,
    by decide +kernel, ?_⟩
  have h : ∀ i : Fin 4, 1 ≤ i.val → ((good.tEntry i.val).x.toNat, (good.tEntry i.val).y.toNat) =
      enc (multiple good.cfg good.cfg.gen i.val) := by decide +kernel
  exact fun i h1 h2 => h ⟨i, h2⟩ h1

theorem witness_BchkRule : good.status.cfgv = true ∧ TableMatches good ∧
    (boot.setTEntry 0 ⟨0, 1⟩).status.cfgv = true ∧ ¬TableMatches (boot.setTEntry 0 ⟨0, 1⟩) :=
  ⟨rfl, good_tableMatches, rfl, fun h => absurd h.2.2.2.2.2.2.1 (by decide +kernel)⟩

theorem witness_BmulRule : good.Inv ∧ PassesGate (.bmul 7 0) good ∧ good.status.brkv = true ∧
    good.sVal 0 < 2 ^ good.cfg.combLen ∧
    high.Inv ∧ PassesGate (.bmul 7 0) high ∧ high.status.brkv = true ∧ 2 ^ high.cfg.combLen ≤ high.sVal 0 ∧
    noBrick.Inv ∧ PassesGate (.bmul 7 0) noBrick ∧ noBrick.status.brkv = false :=
  ⟨good_inv, gate_of (by decide) rfl, rfl, by decide +kernel, high_inv, gate_of (by decide) rfl, rfl,
    by decide +kernel, noBrick_inv, gate_of (by decide) rfl, rfl⟩

theorem witness_FixedBaseAgreesWithGeneral : good.Inv ∧ PassesGate (.bmul 7 0) good ∧ PassesGate (.smul 7 0 0) good ∧
    good.status.brkv = true ∧ good.sVal 0 < 2 ^ good.cfg.combLen ∧ good.ptVal 0 = good.cfg.gen :=
  ⟨good_inv, gate_of (by decide) rfl, gate_of (by decide) rfl, rfl, by decide +kernel, by decide +kernel⟩

theorem witness_SmulRule : (good.Inv ∧ PassesGate (.smul 7 0 0) good ∧ good.canonP 0 = true ∧
      good.sVal 0 < 2 ^ good.cfg.deg ∧ oncurve good.cfg (good.ptVal 0) = true) ∧
    (high.Inv ∧ PassesGate (.smul 7 0 0) high ∧ high.canonP 0 = false ∧ high.canonP 1 = true ∧
      2 ^ high.cfg.deg ≤ high.sVal 0) ∧
    (zeros.Inv ∧ PassesGate (.smul 7 0 1) zeros ∧ zeros.canonP 1 = true ∧ zeros.sVal 0 < 2 ^ zeros.cfg.deg ∧
      oncurve zeros.cfg (zeros.ptVal 1) = false) :=
  ⟨⟨good_inv, gate_of (by decide) rfl, by decide +kernel, by decide +kernel, by decide +kernel⟩,
    ⟨high_inv, gate_of (by decide) rfl, by decide +kernel, by decide +kernel, by decide +kernel⟩,
    ⟨zeros_inv, gate_of (by decide) rfl, by decide +kernel, by decide +kernel, by decide +kernel⟩⟩

theorem witness_ScalarMulIsMultiple : good.Inv ∧ PassesGate (.smul 7 0 1) good ∧ good.canonP 1 = true ∧
    good.sVal 0 < 2 ^ good.cfg.deg ∧ oncurve good.cfg (good.ptVal 1) = true :=
  ⟨good_inv, gate_of (by decide) rfl, by decide +kernel, by decide +kernel, by decide +kernel⟩

/-- x^5 + x^2 + 1 has no proper factor: every product of a polynomial of degree 1 to 4 by one of the fitting degree is
different from it. -/
theorem t5_noProperFactor : NoProperFactor (redPoly t5Cfg) := by
  have hf : redPoly t5Cfg = 37 := by decide +kernel
  rw [hf]
  rintro g h hgh ⟨h1, h2⟩
  have hl : deg 37 = 5 := by decide +kernel
  have hg0 : g ≠ 0 := by rintro rfl; rw [clmul_comm, clmul_zero] at hgh; omega
  have hh0 : h ≠ 0 := by rintro rfl; rw [clmul_zero] at hgh; omega
  have hd := log2_clmul hg0 hh0
  rw [hgh] at hd
  rw [hl] at h2
  have hd' : 5 = g.log2 + h.log2 := hl ▸ hd
  have hg : g < 2 ^ 5 := (log2_lt_iff hg0).mp h2
  have hh : h < 2 ^ 5 := (log2_lt_iff hh0).mp (by unfold deg at h1; omega)
  have key : ∀ a b : Fin 32, 0 < deg a.val → clmul a.val b.val ≠ 37 := by decide +kernel
  exact key ⟨g, hg⟩ ⟨h, hh⟩ h1 hgh

theorem witness_CfgchkRule : ConfigurationLegal good ∧ ¬ConfigurationLegal { good with cfg := { t5Cfg with b := 0 } } :=
  ⟨⟨by decide, by decide, .inl (by decide), t5_noProperFactor, by decide +kernel, by decide +kernel,
    by decide +kernel⟩, fun h => absurd h.2.2.2.2.2.2 (by decide +kernel)⟩

theorem witness_RabinDecidesIrreducible : 2 ≤ 5 ∧ deg 37 = 5 ∧ rabin 37 5 = true ∧ deg 35 = 5 ∧ rabin 35 5 = false := by
  decide +kernel

theorem witness_ApertureMap : locate build 0x1FF00 = some (.tX 255 0) ∧ locate build 0xBC4 = some (.f 15 17) ∧
    locate build 0xC8C = some (.wide 35) ∧ (Loc.tY 255 17).implemented build = true := by decide

theorem witness_CmdWriteIsAccepted : good.status.busy = false ∧
    NextAccess (bus good 0x00C 32 (.write 0xFFFFFFFF)) .cmd (.write 0xFFFFFFFF) [] := ⟨rfl, rfl⟩

theorem witness_BusyWriteIsDropped : (inFlight 0).status.busy = true ∧
    ((Loc.tY 255 17).implemented build = true ∧
      NextAccess (bus (inFlight 0) 0x1FFC4 32 (.write 1)) (.tY 255 17) (.write 1) []) ∧
    NextAccess (bus (inFlight 0) 0x004 32 (.write 1)) .ctrl (.write 1) [] ∧
    NextAccess (bus (inFlight 0) 0x008 32 (.write 6)) .status (.write 6) [] :=
  ⟨rfl, ⟨by decide, rfl⟩, rfl, rfl⟩

theorem witness_ReadsChangeNothing : (Loc.f 15 17).implemented build = true ∧ good.status.busy = false ∧
    NextAccess (bus good 0xBC4 32 .read) (.f 15 17) .read [] := ⟨by decide, rfl, rfl⟩

theorem witness_BusyReadsOfControlWords :
    (bus (inFlight 0) 0x008 32 .read).Inv ∧ (inFlight 0).status.busy = true ∧
    NextAccess (bus (inFlight 0) 0x008 32 .read) .status .read [] ∧ Loc.status.anyWhenBusy = false ∧
    (bus (inFlight 0) 0x2C4 32 .read).Inv ∧
    NextAccess (bus (inFlight 0) 0x2C4 32 .read) (.cfgGY 17) .read [] ∧ (Loc.cfgGY 17).implemented build = true :=
  ⟨State.inv_of_check (by decide +kernel), rfl, rfl, rfl, State.inv_of_check (by decide +kernel), rfl, by decide⟩

/-- Offset 0x1A00 is S4, which the default build does not have (V-H8). -/
theorem no_word_at_S4 (l : Loc) (h : l.implemented build = true) : l.offset ≠ 0x1A00 := by
  have hw : build.wordsMax = 18 := rfl
  have ht : build.tableSize = 256 := rfl
  cases l <;> simp only [Loc.implemented, Loc.offset, hw, ht, Bool.and_eq_true, decide_eq_true_eq] at h ⊢ <;>
    first
    | decide
    | (simp only [build] at h; omega)
    | omega

theorem witness_RejectedAccessIsBusError :
    (bus good 0x1A00 32 .read).inbox = [.access ⟨good.params.base + 0x1A00, 32, .read⟩] ∧ 0x1A00 < 0x20000 ∧
    (∀ l : Loc, l.implemented good.params = true → l.offset ≠ 0x1A00) ∧ (16 : Nat) ≠ 32 ∧ 0x1FFFF % 4 ≠ 0 ∧
    0x1FFFF < 0x20000 := ⟨rfl, by decide, no_word_at_S4, by decide, by decide, by decide⟩

theorem witness_WrittenWordIsReadBack :
    NextAccess (bus good 0x030 32 (.write 0xFFFFFFFF)) .pinf (.write 0xFFFFFFFF) [] ∧ good.status.busy = false ∧
    Loc.pinf.implemented build = true ∧ (Loc.s 3 17).implemented build = true ∧
    NextAccess (bus good 0x19C4 32 (.write 1)) (Loc.s 3 17) (.write 1) [] := ⟨rfl, rfl, rfl, by decide, rfl⟩

theorem witness_WritesClearValidity :
    (NextAccess (bus good 0x1C4 32 (.write 0)) (.cfgB 17) (.write 0) [] ∧ (Loc.cfgB 17).implemented build = true ∧
      clearsBoth (.cfgB 17) = true) ∧
    (NextAccess (bus good 0x1FFC4 32 (.write 0)) (.tY 255 17) (.write 0) [] ∧
      (Loc.tY 255 17).implemented build = true ∧ clearsBrick (.tY 255 17) = true) ∧
    (clearsBoth .ctrl = false ∧ clearsBrick .ctrl = false ∧ good.status.busy = false) :=
  ⟨⟨rfl, by decide, rfl⟩, ⟨rfl, by decide, rfl⟩, rfl, rfl, rfl⟩

theorem witness_StatusWordAndWrite : NextAccess (bus good 0x008 32 (.write 6)) .status (.write 6) [] := rfl

theorem witness_ParamWordIsConstant : (∃ t, Sys2Proof.Machine.step good = .next t) ∧
    good.status.busy = false ∧ NextAccess (bus good 0x000 32 (.write 0xFFFFFFFF)) .param (.write 0xFFFFFFFF) [] :=
  ⟨⟨_, rfl⟩, rfl, rfl⟩

theorem witness_InterruptOutput :
    (∃ t, exec .nop { good with ie := true } = .next t) ∧
    ({ good with ie := true }.withFetchWord 32 0xFF000000).status.busy = true ∧
    ({ good with ie := true }.withFetchWord 32 0xFF000000).ie = true ∧
    ({ good with ie := true }.withFetchWord 32 0xFF000000).inbox = .engine :: [] ∧
    NextAccess (bus good 0x004 32 (.write 0)) .ctrl (.write 0) [] ∧ (0#32).getLsbD 0 = false ∧
    NextAccess (bus good 0x004 32 (.write 1)) .ctrl (.write 1) [] ∧ (1#32).getLsbD 0 = true ∧
    good.status.done = true ∧ NextAccess (bus good 0x008 32 (.write 2)) .status (.write 2) [] ∧
    (2#32).getLsbD 1 = true ∧ NextAccess (bus good 0x00C 32 (.write 0)) .cmd (.write 0) [] ∧
    good.status.busy = false ∧ { good with inbox := [.reset] }.inbox = .reset :: [] :=
  ⟨⟨_, rfl⟩, rfl, rfl, rfl, rfl, by decide, rfl, by decide, rfl, rfl, by decide, rfl, rfl, rfl⟩

theorem witness_ResetValues : { inFlight 0 with inbox := [.reset] }.inbox = .reset :: [] := rfl

theorem witness_BusyEnds : (bus (inFlight 0) 0x008 32 .read).status.busy = true ∧
    ∀ e ∈ (bus (inFlight 0) 0x008 32 .read).inbox, e.Admitted (inFlight 0).params := by
  refine ⟨rfl, fun e he => ?_⟩
  rw [show (bus (inFlight 0) 0x008 32 .read).inbox = [.access ⟨8, 32, .read⟩] from rfl] at he
  obtain rfl := List.mem_singleton.mp he
  exact ⟨by decide, by decide⟩

theorem witness_EveryTurnCompletes : (inFlight 0xFF000000).status.busy = true ∧ (inFlight 0xFF000000).inbox = [] ∧
    (good.withFetchWord 32 0x50737000).status.busy = true ∧
    (good.withFetchWord 32 0x50737000).inbox = .engine :: [] := ⟨rfl, rfl, rfl, rfl⟩

end Sys2Proof.Tests
end

/-! The shape of a step: what it consumes, and what a host access does to the state. -/

namespace Sys2Proof.Machine

variable {s t : State}

/-- The state after the next pending input, if there is one, is taken from the inbox. -/
def State.consume (s : State) : State := { s with inbox := s.inbox.tail }

theorem State.consume_of_nil (h : s.inbox = []) : s.consume = s := by
  cases s; cases h; rfl

theorem State.consume_of_cons {e : Event} {rest : List Event} (h : s.inbox = e :: rest) :
    s.consume = { s with inbox := rest } := by
  rw [State.consume, h]; rfl

theorem locate_implemented {p : Params} {off : Nat} {l : Loc} (h : locate p off = some l) :
    l.implemented p = true := by
  unfold locate at h
  split at h
  · exact (Option.filter_eq_some_iff.mp h).2
  · cases h

theorem Access.target_implemented {a : Access} {p : Params} {l : Loc} (h : a.target p = some l) :
    l.implemented p = true := by
  unfold Access.target at h
  split at h
  · exact locate_implemented h
  · cases h

/-- The four things a step can do, on the state with its input consumed. -/
theorem step_effect (h : step s = .next t) :
    engineTurn s.consume = .next t ∨
    (∃ a rest l, s.inbox = .access a :: rest ∧ a.kind = .read ∧ t = hostRead l s.consume) ∨
    (∃ a rest l v, s.inbox = .access a :: rest ∧ a.kind = .write v ∧ l.implemented s.params = true ∧
      t = hostWrite l v s.consume) ∨
    (∃ rest, s.inbox = .reset :: rest ∧ t = unitReset s.consume) := by
  obtain ⟨hi, h⟩ | ⟨rest, hi, h⟩ | ⟨a, rest, hi, h⟩ | ⟨rest, hi, rfl⟩ := step_cases h
  · exact .inl ((State.consume_of_nil hi).symm ▸ h)
  · exact .inl ((State.consume_of_cons hi).symm ▸ h)
  · rw [State.consume_of_cons hi]
    obtain ⟨l, -, hl, rfl⟩ := hostAccess_cases h
    cases hk : a.kind with
    | read => exact .inr (.inl ⟨a, rest, l, hi, hk, rfl⟩)
    | write v => exact .inr (.inr (.inl ⟨a, rest, l, v, hi, hk, Access.target_implemented hl, rfl⟩))
  · exact .inr (.inr (.inr ⟨rest, hi, by rw [State.consume_of_cons hi]⟩))

/-- A host write is dropped, or it takes effect. -/
theorem hostWrite_cases (l : Loc) (v : Word) (s : State) :
    hostWrite l v s = { s.dropWrite with answer := .written } ∨
    hostWrite l v s = { s.writeLoc v l with answer := .written } := by
  unfold hostWrite
  split
  · exact .inl rfl
  · exact .inr rfl

/-- A host write that is not dropped because no command is in flight. -/
theorem hostWrite_of_idle (l : Loc) (v : Word) (h : s.status.busy = false) :
    hostWrite l v s = { s.writeLoc v l with answer := .written } := by
  simp [hostWrite, h]

/-- A host write that is not dropped because its word is writable in every state (R92). -/
theorem hostWrite_of_writable {l : Loc} (v : Word) (s : State) (h : l.writableWhenBusy = true) :
    hostWrite l v s = { s.writeLoc v l with answer := .written } := by
  simp [hostWrite, h]

/-- The step on a 32-bit access to a word that `locate` finds at its offset. -/
theorem step_nextAccess {l : Loc} {k : AccessKind} {rest : List Event} (h : NextAccess s l k rest)
    (hl : locate s.params l.offset = some l) (ho : l.offset < Config.apertureSize) :
    step s = .next (hostAccessAt l k { s with inbox := rest }) := by
  unfold step
  rw [h]
  simp [hostAccess, Access.inAperture, Access.target, ho, hl]

/-- No host write changes the parameters. -/
theorem writeLoc_params (s : State) (v : Word) (l : Loc) : (s.writeLoc v l).params = s.params := by
  cases l <;> rfl

theorem hostWrite_params (l : Loc) (v : Word) (s : State) : (hostWrite l v s).params = s.params := by
  obtain h | h := hostWrite_cases l v s <;> rw [h]
  · rfl
  · exact writeLoc_params s v l

end Sys2Proof.Machine

/-! What a command and the engine's turn leave alone (10_state.md R54). -/

namespace Sys2Proof.Machine

variable {s s' t : State} {i : Instr}

theorem KeepsShared.refl (s : State) : KeepsShared s s := ⟨rfl, rfl, rfl, rfl, rfl, rfl, rfl, rfl, rfl⟩

theorem KeepsShared.complete (h : KeepsShared s t) (e : ErrCode) : KeepsShared s (t.complete e) :=
  ⟨h.params, h.ie, h.cmd, h.cfg, h.table, h.lost, h.draw, h.inbox, h.answer⟩

/-- No effect of a command touches what the commands share. -/
theorem Succeeds.keepsShared (h : Succeeds s i s') : KeepsShared s s' := by
  cases h <;> exact ⟨rfl, rfl, rfl, rfl, rfl, rfl, rfl, rfl, rfl⟩

/-- No command touches what the commands share, however it ends. -/
theorem exec_keepsShared (h : exec i s = .next t) : KeepsShared s t := by
  cases exec_ends h with
  | ok hs => exact hs.keepsShared.complete _
  | fail e _ => exact (KeepsShared.refl s).complete e
  | badCfg => exact ⟨rfl, rfl, rfl, rfl, rfl, rfl, rfl, rfl, rfl⟩
  | badTable => exact ⟨rfl, rfl, rfl, rfl, rfl, rfl, rfl, rfl, rfl⟩

theorem engineTurn_keepsShared (h : engineTurn s = .next t) : KeepsShared s t := by
  obtain ⟨-, rfl⟩ | ⟨-, ⟨i, -, h⟩ | ⟨e, -, rfl⟩⟩ := engineTurn_cases h
  · exact .refl _
  · exact exec_keepsShared h
  · exact (KeepsShared.refl s).complete _

/-- A command succeeds, or it leaves the flags and the session registers alone (R273). -/
theorem exec_succeeds_or_keeps (h : exec i s = .next t) :
    (∃ s', Succeeds s i s' ∧ t = s'.complete .none) ∨ (KeepsFlags s t ∧ KeepsSession s t) := by
  cases exec_ends h with
  | ok hs => exact .inl ⟨_, hs, rfl⟩
  | fail e _ => exact .inr ⟨⟨rfl, rfl⟩, ⟨fun _ => rfl, rfl, fun _ => rfl, fun _ => rfl⟩⟩
  | badCfg => exact .inr ⟨⟨rfl, rfl⟩, ⟨fun _ => rfl, rfl, fun _ => rfl, fun _ => rfl⟩⟩
  | badTable => exact .inr ⟨⟨rfl, rfl⟩, ⟨fun _ => rfl, rfl, fun _ => rfl, fun _ => rfl⟩⟩

/-- Only PCHK and ZEROIZE write FLAG (R40). -/
theorem Succeeds.flag_writer (h : Succeeds s i s') (hne : s'.status.flag ≠ s.status.flag) :
    (∃ a, i = .pchk a) ∨ i = .zeroize := by
  cases h with
  | pchk => exact .inl ⟨_, rfl⟩
  | zeroize => exact .inr rfl
  | _ => exact absurd rfl hne

/-- Only PCMP and ZEROIZE write SEL (R41). -/
theorem Succeeds.sel_writer (h : Succeeds s i s') (hne : s'.status.sel ≠ s.status.sel) :
    (∃ d a, i = .pcmp d a) ∨ i = .zeroize := by
  cases h with
  | pcmp => exact .inl ⟨_, _, rfl⟩
  | zeroize => exact .inr rfl
  | _ => exact absurd rfl hne

/-- Only FCLMUL and ZEROIZE write WIDE (R34). -/
theorem Succeeds.wide_writer (h : Succeeds s i s') (hne : s'.wide ≠ s.wide) :
    (∃ a b, i = .fclmul a b) ∨ i = .zeroize := by
  cases h with
  | fclmul => exact .inl ⟨_, _, rfl⟩
  | zeroize => exact .inr rfl
  | _ => exact absurd rfl hne

/-- Only ZEROIZE writes a scalar register (R38). -/
theorem Succeeds.sReg_writer (h : Succeeds s i s') {k : Nat} (hne : s'.sReg k ≠ s.sReg k) : i = .zeroize := by
  cases h with
  | zeroize => rfl
  | _ => exact absurd rfl hne

/-- Settles O10: the engine's turn keeps what the commands share, and a read changes nothing of the unit. -/
theorem commandsKeepConfiguration : Obligations.CommandsKeepConfiguration := by
  refine ⟨fun i s t h => ⟨(exec_keepsShared h).cfg, (exec_keepsShared h).table⟩, fun s t h hne => ?_⟩
  obtain h | ⟨a, rest, l, hi, hk, rfl⟩ | ⟨a, rest, l, v, hi, hk, -, rfl⟩ | ⟨rest, hi, rfl⟩ := step_effect h
  · have hk := engineTurn_keepsShared h
    exact (hne.elim (absurd hk.cfg) (absurd hk.table))
  · exact hne.elim (absurd rfl) (absurd rfl)
  · exact ⟨rest, .inl ⟨a, v, hi, hk⟩⟩
  · exact ⟨rest, .inr hi⟩

/-- Settles O11, by the writers among the successful commands. -/
theorem flagSelWideScalarWriters : Obligations.FlagSelWideScalarWriters := by
  intro i s t h
  obtain ⟨s', hs, rfl⟩ | ⟨hf, hr⟩ := exec_succeeds_or_keeps h
  · exact ⟨hs.flag_writer, hs.sel_writer, hs.wide_writer, fun _ => hs.sReg_writer⟩
  · exact ⟨absurd hf.flag, absurd hf.sel, absurd hr.wide, fun k => absurd (hr.s k)⟩

end Sys2Proof.Machine

/-! STATUS, PARAM and reset (10_state.md R42, R44, R60). -/

namespace Sys2Proof.Machine

variable {s t : State}

theorem step_of_reset {rest : List Event} (h : s.inbox = .reset :: rest) :
    step s = .next (unitReset { s with inbox := rest }) := by
  unfold step
  rw [h]

/-- No step changes the parameters (R44). -/
theorem step_params (h : step s = .next t) : t.params = s.params := by
  obtain h | ⟨a, rest, l, -, -, rfl⟩ | ⟨a, rest, l, v, -, -, -, rfl⟩ | ⟨rest, -, rfl⟩ := step_effect h
  · exact (engineTurn_keepsShared h).params
  · rfl
  · exact hostWrite_params l v s.consume
  · rfl

theorem locate_param (p : Params) : locate p Loc.param.offset = some .param := rfl
theorem locate_status (p : Params) : locate p Loc.status.offset = some .status := rfl

/-- A write to STATUS takes effect in every state (R42, R92). -/
theorem step_write_status {v : Word} {rest : List Event} (h : NextAccess s .status (.write v) rest) :
    step s = .next { s with status := s.status.w1c v, inbox := rest, answer := .written } := by
  rw [step_nextAccess h (locate_status _) (by decide), hostAccessAt, hostWrite_of_writable v _ rfl]
  rfl

/-- A write to PARAM while no command is in flight is ignored (R44, R87). -/
theorem step_write_param {v : Word} {rest : List Event} (hb : s.status.busy = false)
    (h : NextAccess s .param (.write v) rest) : step s = .next { s with inbox := rest, answer := .written } := by
  have hw := hostWrite_of_idle (s := { s with inbox := rest }) .param v hb
  rw [step_nextAccess h (locate_param _) (by decide), hostAccessAt, hw]
  rfl

/-- The single-bit fields of the STATUS word (R42). -/
theorem Status.getLsbD_word (t : Status) :
    t.word.getLsbD 0 = t.busy ∧ t.word.getLsbD 1 = t.done ∧ t.word.getLsbD 2 = t.lost ∧
    t.word.getLsbD 3 = t.flag ∧ t.word.getLsbD 4 = t.sel ∧ t.word.getLsbD 5 = t.cfgv ∧
    t.word.getLsbD 6 = t.brkv ∧ t.word.getLsbD 7 = false := by
  simp only [Status.word, BitVec.getLsbD_append]
  simp

/-- ERR stands in bits 11:8 of the STATUS word, and nothing above it (R42). -/
theorem Status.extractLsb'_word (t : Status) :
    t.word.extractLsb' 8 4 = t.err.code ∧ t.word.extractLsb' 12 20 = 0#20 := by
  simp only [Status.word, BitVec.extractLsb'_append_eq_ite]
  simp

/-- Settles O50, by the fields of the word and the one effect of the write. -/
theorem statusWordAndWrite : Obligations.StatusWordAndWrite := by
  refine ⟨fun t => ?_, fun s v rest h => step_write_status h⟩
  obtain ⟨h0, h1, h2, h3, h4, h5, h6, h7⟩ := t.getLsbD_word
  obtain ⟨he, hr⟩ := t.extractLsb'_word
  exact ⟨h0, h1, h2, h3, h4, h5, h6, h7, he, hr⟩

/-- The fields of the PARAM word, as bit vectors (R44). -/
theorem extractLsb'_paramWord (p : Params) :
    (paramWord p).extractLsb' 0 12 = BitVec.ofNat 12 p.mmax ∧
    (paramWord p).extractLsb' 12 4 = BitVec.ofNat 4 p.wmax ∧
    (paramWord p).extractLsb' 16 4 = BitVec.ofNat 4 (p.nf - 1) ∧
    (paramWord p).extractLsb' 20 3 = BitVec.ofNat 3 (p.np - 1) ∧
    (paramWord p).getLsbD 23 = false ∧
    (paramWord p).extractLsb' 24 4 = BitVec.ofNat 4 (p.ns - 1) ∧
    (paramWord p).extractLsb' 28 4 = 1#4 := by
  simp only [paramWord, BitVec.getLsbD_append, BitVec.extractLsb'_append_eq_ite]
  simp

/-- Settles O51: the bounds of R10 make every parameter fit its field. -/
theorem paramWordIsConstant : Obligations.ParamWordIsConstant := by
  refine ⟨fun p => ?_, fun s t h => ⟨step_params h, ?_⟩, fun s v rest => step_write_param⟩
  · obtain ⟨hm, hw, hf, hp, hz, hs, hv⟩ := extractLsb'_paramWord p
    have hb := p.bounds
    rw [hm, hw, hf, hp, hs]
    exact ⟨toNat_ofNat_of_lt (by omega), toNat_ofNat_of_lt (by omega), toNat_ofNat_of_lt (by omega),
      toNat_ofNat_of_lt (by omega), hz, toNat_ofNat_of_lt (by omega), hv⟩
  · exact congrArg paramWord (step_params h)

/-- PINF reads as NP ones while every point register holds O (R37). -/
theorem pinfWord_of_all_inf (h : ∀ j, (s.pReg j).inf = true) :
    s.pinfWord = BitVec.ofNat 32 (2 ^ s.params.np - 1) := by
  apply BitVec.eq_of_getLsbD_eq
  intro i hi
  rw [State.pinfWord, BitVec.getLsbD_setWidth, BitVec.getLsbD_ofBoolListLE, BitVec.getLsbD_ofNat,
    Nat.testBit_two_pow_sub_one]
  by_cases hj : i < s.params.np <;> simp [State.infBits, h, hi, hj]

/-- A read of a file that holds the same value everywhere, which is also its value out of bounds. -/
theorem getD_getElem?_replicate {α : Type} (n : Nat) (a : α) (i : Nat) :
    (Vector.replicate n a)[i]?.getD a = a := by
  by_cases h : i < n <;> simp [h]

@[simp] theorem State.resetWith_fReg (p : Params) (n i : Nat) : (State.resetWith p n).fReg i = 0 :=
  getD_getElem?_replicate 16 _ i

@[simp] theorem State.resetWith_pReg (p : Params) (n j : Nat) : (State.resetWith p n).pReg j = PointReg.infinity :=
  getD_getElem?_replicate 8 _ j

@[simp] theorem State.resetWith_sReg (p : Params) (n k : Nat) : (State.resetWith p n).sReg k = 0 :=
  getD_getElem?_replicate 16 _ k

/-- PINF reads as NP ones after a reset (R60). -/
theorem pinfWord_resetWith (p : Params) (n : Nat) :
    (State.resetWith p n).pinfWord = BitVec.ofNat 32 (2 ^ p.np - 1) :=
  pinfWord_of_all_inf fun j => by rw [State.resetWith_pReg]; rfl

theorem Status.word_reset : Status.reset.word = 0#32 := by decide

/-- Settles O53: a reset is one step to the reset state of the build, whatever the state before. -/
theorem resetValues : Obligations.ResetValues := by
  intro s rest h
  refine ⟨_, step_of_reset h, rfl, rfl, Status.word_reset, rfl, rfl, rfl, rfl, rfl, rfl, rfl, rfl, rfl, rfl, rfl,
    State.resetWith_fReg s.params s.draw, rfl, State.resetWith_sReg s.params s.draw, fun j => ?_,
    pinfWord_resetWith s.params s.draw, rfl⟩
  have hj := State.resetWith_pReg s.params s.draw j
  exact ⟨congrArg PointReg.inf hj, congrArg PointReg.x hj, congrArg PointReg.y hj⟩

end Sys2Proof.Machine

/-! The validity bits (10_state.md R52, R53): what a host write and a command do to them. -/

namespace Sys2Proof.Machine

variable {s s' t : State} {i : Instr}

/-- CFGCHK's conditions, as propositions (R252). -/
theorem State.cfgOk_iff : s.cfgOk = true ↔
    (2 ≤ s.cfg.deg ∧ s.cfg.deg ≤ s.params.mmax) ∧ polyShapeOk s.cfg = true ∧
      rabin (redPoly s.cfg) s.cfg.deg = true ∧
      s.cfg.aVal < 2 ^ s.cfg.deg ∧ s.cfg.bVal < 2 ^ s.cfg.deg ∧ s.cfg.bVal ≠ 0 := by
  simp [State.cfgOk, and_assoc]

theorem State.cfgOk_congr (hp : t.params = s.params) (hc : t.cfg = s.cfg) : t.cfgOk = s.cfgOk := by
  simp [State.cfgOk, hp, hc]

theorem State.entryIs_congr (ht : t.table = s.table) (n : Nat) (r : Pt) : t.entryIs n r = s.entryIs n r := by
  simp [State.entryIs, State.tEntry_of_table_eq ht]

theorem State.entriesFrom_congr (hc : t.cfg = s.cfg) (ht : t.table = s.table) (n j : Nat) (r : Pt) :
    t.entriesFrom n j r = s.entriesFrom n j r := by
  induction n generalizing j r with
  | zero => rfl
  | succ n ih => simp [State.entriesFrom, hc, ih, State.entryIs_congr ht]

/-- BCHK's conditions read the parameters, the configuration and the table only (R220). -/
theorem State.brickOk_congr (hp : t.params = s.params) (hc : t.cfg = s.cfg) (ht : t.table = s.table) :
    t.brickOk = s.brickOk := by
  simp [State.brickOk, hp, hc, State.entryIs_congr ht, State.entriesFrom_congr hc ht]

/-- What a host write does to the validity bits: it clears both; or it clears BRKV and keeps what CFGCHK checks; or it
keeps both, with the configuration and the table (R52, R53, R89). -/
theorem writeLoc_validity (s : State) (v : Word) (l : Loc) :
    ((s.writeLoc v l).status.cfgv = false ∧ (s.writeLoc v l).status.brkv = false) ∨
    ((s.writeLoc v l).status.cfgv = s.status.cfgv ∧ (s.writeLoc v l).status.brkv = false ∧
      (s.writeLoc v l).cfgOk = s.cfgOk) ∨
    (KeepsValidity s (s.writeLoc v l) ∧ (s.writeLoc v l).cfg = s.cfg ∧ (s.writeLoc v l).table = s.table) := by
  cases l with
  | cfgM | cfgEA | cfgEB | cfgEC | cfgA | cfgB => exact .inl ⟨rfl, rfl⟩
  | cfgW | cfgL | cfgGX | cfgGY | tX | tY => exact .inr (.inl ⟨rfl, rfl, rfl⟩)
  | param | ctrl | status | cmd | pinf | f | wide | pX | pY | s => exact .inr (.inr ⟨⟨rfl, rfl⟩, rfl, rfl⟩)

/-- No host write sets a validity bit. -/
theorem hostWrite_validity_le (l : Loc) (v : Word) (s : State) :
    ((hostWrite l v s).status.cfgv = true → s.status.cfgv = true) ∧
    ((hostWrite l v s).status.brkv = true → s.status.brkv = true) := by
  obtain h | h := hostWrite_cases l v s <;> rw [h]
  · exact ⟨id, id⟩
  · change ((s.writeLoc v l).status.cfgv = true → _) ∧ ((s.writeLoc v l).status.brkv = true → _)
    obtain ⟨hc, hb⟩ | ⟨hc, hb, -⟩ | ⟨⟨hc, hb⟩, -, -⟩ := writeLoc_validity s v l <;> simp [hc, hb]

/-- Of the successful commands only CFGCHK sets CFGV and only BCHK sets BRKV, each with its conditions met. -/
theorem Succeeds.validity (h : Succeeds s i s') :
    (s'.status.cfgv = true → s.status.cfgv = true ∨ (i = .cfgchk ∧ s.cfgOk = true)) ∧
    (s'.status.brkv = true →
      s.status.brkv = true ∨ (i = .bchk ∧ s.status.cfgv = true ∧ s.brickOk = true)) := by
  cases h with
  | cfgchk hc => exact ⟨fun _ => .inr ⟨rfl, hc⟩, .inl⟩
  | bchk hv hb => exact ⟨.inl, fun _ => .inr ⟨rfl, hv, hb⟩⟩
  | _ => exact ⟨.inl, .inl⟩

theorem exec_validity (h : exec i s = .next t) :
    (t.status.cfgv = true → s.status.cfgv = true ∨ (i = .cfgchk ∧ s.cfgOk = true)) ∧
    (t.status.brkv = true →
      s.status.brkv = true ∨ (i = .bchk ∧ s.status.cfgv = true ∧ s.brickOk = true)) := by
  cases exec_ends h with
  | ok hs => exact hs.validity
  | fail => exact ⟨.inl, .inl⟩
  | badCfg => exact ⟨nofun, nofun⟩
  | badTable => exact ⟨.inl, nofun⟩

/-- The engine's turn sets a validity bit only by the check in flight. -/
theorem engineTurn_validity (h : engineTurn s = .next t) :
    (t.status.cfgv = true →
      s.status.cfgv = true ∨ (s.status.busy = true ∧ fetch s = .ok .cfgchk ∧ s.cfgOk = true)) ∧
    (t.status.brkv = true → s.status.brkv = true ∨
      (s.status.busy = true ∧ fetch s = .ok .bchk ∧ s.status.cfgv = true ∧ s.brickOk = true)) := by
  obtain ⟨-, rfl⟩ | ⟨hb, ⟨i, hf, h⟩ | ⟨e, -, rfl⟩⟩ := engineTurn_cases h
  · exact ⟨.inl, .inl⟩
  · obtain ⟨hc, hk⟩ := exec_validity h
    exact ⟨fun ht => (hc ht).imp_right fun ⟨hi, hok⟩ => ⟨hb, hi ▸ hf, hok⟩,
      fun ht => (hk ht).imp_right fun ⟨hi, hok⟩ => ⟨hb, hi ▸ hf, hok⟩⟩
  · exact ⟨.inl, .inl⟩

/-- Settles O12: only the engine's turn sets a validity bit, and only by the check in flight. -/
theorem validityBitsAreEarned : Obligations.ValidityBitsAreEarned := by
  intro s t h
  have hbrick : s.consume.brickOk = s.brickOk := State.brickOk_congr rfl rfl rfl
  obtain h | ⟨a, rest, l, -, -, rfl⟩ | ⟨a, rest, l, v, -, -, -, rfl⟩ | ⟨rest, -, rfl⟩ := step_effect h
  · obtain ⟨hc, hk⟩ := engineTurn_validity h
    rw [hbrick] at hk
    exact ⟨fun h0 ht => (hc ht).resolve_left (ne_true_of_eq_false h0),
      fun h0 ht => (hk ht).resolve_left (ne_true_of_eq_false h0)⟩
  · exact ⟨fun h0 ht => absurd ht (ne_true_of_eq_false h0), fun h0 ht => absurd ht (ne_true_of_eq_false h0)⟩
  · obtain ⟨hc, hk⟩ := hostWrite_validity_le l v s.consume
    exact ⟨fun h0 ht => absurd (hc ht) (ne_true_of_eq_false h0),
      fun h0 ht => absurd (hk ht) (ne_true_of_eq_false h0)⟩
  · exact ⟨nofun, nofun⟩

/-- The meaning of the validity bits depends on the parameters, the configuration and the table only. -/
theorem State.Valid.congr (h : s.Valid) (hp : t.params = s.params) (hc : t.cfg = s.cfg) (ht : t.table = s.table)
    (hv : KeepsValidity s t) : t.Valid := by
  refine ⟨fun h1 => ?_, fun h1 => ?_⟩
  · rw [State.cfgOk_congr hp hc]
    exact h.cfgv (hv.cfgv ▸ h1)
  · rw [hv.cfgv, State.brickOk_congr hp hc ht]
    exact h.brkv (hv.brkv ▸ h1)

theorem State.Valid.writeLoc (h : s.Valid) (v : Word) (l : Loc) : (s.writeLoc v l).Valid := by
  obtain ⟨hc, hb⟩ | ⟨hc, hb, hok⟩ | ⟨hv, hc, ht⟩ := writeLoc_validity s v l
  · exact ⟨fun h1 => absurd h1 (ne_true_of_eq_false hc), fun h1 => absurd h1 (ne_true_of_eq_false hb)⟩
  · exact ⟨fun h1 => hok.trans (h.cfgv (hc ▸ h1)), fun h1 => absurd h1 (ne_true_of_eq_false hb)⟩
  · exact h.congr (writeLoc_params s v l) hc ht hv

/-- A successful command leaves the validity bits with their meaning. -/
theorem Succeeds.valid (h : Succeeds s i s') (hs : s.Valid) : s'.Valid := by
  have hk := h.keepsShared
  cases h with
  | cfgchk hc =>
    refine ⟨fun _ => hc, fun hb => ⟨rfl, ?_⟩⟩
    rw [State.brickOk_congr hk.params hk.cfg hk.table]
    exact (hs.brkv hb).2
  | bchk hv hb =>
    refine ⟨hs.cfgv, fun _ => ⟨hv, ?_⟩⟩
    rwa [State.brickOk_congr hk.params hk.cfg hk.table]
  | _ => exact hs.congr hk.params hk.cfg hk.table ⟨rfl, rfl⟩

end Sys2Proof.Machine

/-! The register files hold nothing past the implemented bits and slots: one rule per state operation. -/

namespace Sys2Proof

theorem Params.mmax_le_regw (p : Params) : p.mmax ≤ p.regw := by
  unfold Params.regw Params.wordsMax
  omega

theorem Params.tableSize_le (p : Params) : p.tableSize ≤ 256 :=
  Nat.pow_le_pow_right (by decide : 2 > 0) (by have := p.bounds; omega : p.wmax ≤ 8)

/-- The last bit of an implemented word is an implemented bit. -/
theorem Params.word_le_regw {p : Params} {k : Nat} (h : k < p.wordsMax) : 32 * k + 32 ≤ p.regw := by
  unfold Params.regw
  omega

end Sys2Proof

namespace Sys2Proof.Machine

variable {s t : State}

/-- The parameters, the configuration, the register files and the table are unchanged. -/
structure KeepsStore (s t : State) : Prop where
  params : t.params = s.params
  cfg : t.cfg = s.cfg
  fregs : t.fregs = s.fregs
  wide : t.wide = s.wide
  pregs : t.pregs = s.pregs
  sregs : t.sregs = s.sregs
  table : t.table = s.table

theorem State.Fits.of_keepsStore (h : s.Fits) (hk : KeepsStore s t) : t.Fits := by
  cases s
  cases t
  obtain ⟨rfl, rfl, rfl, rfl, rfl, rfl, rfl⟩ := hk
  exact { h with }

theorem State.Fits.setFReg (h : s.Fits) {i : Nat} (hi : i < s.params.nf) {v : Elem}
    (hv : v.toNat < 2 ^ s.params.regw) : (s.setFReg i v).Fits := by
  have hb := s.params.bounds
  have hr := s.fReg_setFReg (i := i) (by omega) (v := v)
  refine { h with fWidth := fun j => ?_, fAbsent := fun j hj => ?_ }
  · rw [hr]
    split
    · exact hv
    · exact h.fWidth j
  · have hj' : s.params.nf ≤ j := hj
    rw [hr, if_neg (by omega)]
    exact h.fAbsent j hj

theorem State.Fits.setSReg (h : s.Fits) {i : Nat} (hi : i < s.params.ns) {v : Elem}
    (hv : v.toNat < 2 ^ s.params.regw) : (s.setSReg i v).Fits := by
  have hb := s.params.bounds
  have hr := s.sReg_setSReg (i := i) (by omega) (v := v)
  refine { h with sWidth := fun j => ?_, sAbsent := fun j hj => ?_ }
  · rw [hr]
    split
    · exact hv
    · exact h.sWidth j
  · have hj' : s.params.ns ≤ j := hj
    rw [hr, if_neg (by omega)]
    exact h.sAbsent j hj

theorem State.Fits.setPReg (h : s.Fits) {i : Nat} (hi : i < s.params.np) {v : PointReg}
    (hx : v.x.toNat < 2 ^ s.params.regw) (hy : v.y.toNat < 2 ^ s.params.regw) : (s.setPReg i v).Fits := by
  have hb := s.params.bounds
  have hr := s.pReg_setPReg (i := i) (by omega) (v := v)
  refine { h with pWidthX := fun j => ?_, pWidthY := fun j => ?_, pAbsent := fun j hj => ?_ }
  · rw [hr]
    split
    · exact hx
    · exact h.pWidthX j
  · rw [hr]
    split
    · exact hy
    · exact h.pWidthY j
  · have hj' : s.params.np ≤ j := hj
    rw [hr, if_neg (by omega)]
    exact h.pAbsent j hj

theorem State.Fits.setTEntry (h : s.Fits) {i : Nat} (hi : i < s.params.tableSize) {v : TableEntry}
    (hx : v.x.toNat < 2 ^ s.params.regw) (hy : v.y.toNat < 2 ^ s.params.regw) : (s.setTEntry i v).Fits := by
  have hr := s.tEntry_setTEntry (hi.trans_le s.params.tableSize_le) (v := v)
  refine { h with tWidthX := fun j => ?_, tWidthY := fun j => ?_, tAbsent := fun j hj => ?_ }
  · rw [hr]
    split
    · exact hx
    · exact h.tWidthX j
  · rw [hr]
    split
    · exact hy
    · exact h.tWidthY j
  · have hj' : s.params.tableSize ≤ j := hj
    rw [hr, if_neg (by omega)]
    exact h.tAbsent j hj

theorem State.Fits.setWide (h : s.Fits) {v : WideElem} (hv : v.toNat < 2 ^ (2 * s.params.regw)) :
    (s.setWide v).Fits := { h with wideWidth := hv }

/-- A read of Pj after a PINF write: only the INF bit of an implemented register changes (R37). -/
theorem State.pReg_writePinf (s : State) (v : Word) (j : Nat) :
    (s.writePinf v).pReg j = if j < s.params.np then { s.pReg j with inf := v.getLsbD j } else s.pReg j := by
  have hb := s.params.bounds
  by_cases hj : j < 8
  · simp [State.pReg, State.writePinf, hj]
  · simp [State.pReg, State.writePinf, hj, show ¬ j < s.params.np by omega]

theorem State.Fits.writePinf (h : s.Fits) (v : Word) : (s.writePinf v).Fits := by
  refine { h with pWidthX := fun j => ?_, pWidthY := fun j => ?_, pAbsent := fun j hj => ?_ }
  · rw [State.pReg_writePinf]
    split <;> exact h.pWidthX j
  · rw [State.pReg_writePinf]
    split <;> exact h.pWidthY j
  · have hj' : s.params.np ≤ j := hj
    rw [State.pReg_writePinf, if_neg (by omega)]
    exact h.pAbsent j hj

/-- Zero fits any width. -/
theorem toNat_zero_lt (n b : Nat) : (0 : BitVec n).toNat < 2 ^ b := by
  rw [show (0 : BitVec n).toNat = 0 from BitVec.toNat_zero]
  exact Nat.two_pow_pos b

theorem State.Fits.zeroize (h : s.Fits) : s.zeroize.Fits := by
  have hf : ∀ i, s.zeroize.fReg i = 0 := getD_getElem?_replicate 16 0
  have hp : ∀ j, s.zeroize.pReg j = PointReg.infinity := getD_getElem?_replicate 8 _
  have hs : ∀ k, s.zeroize.sReg k = 0 := getD_getElem?_replicate 16 0
  exact { h with
    fWidth := fun i => hf i ▸ toNat_zero_lt _ _
    fAbsent := fun i _ => hf i
    wideWidth := toNat_zero_lt _ _
    pWidthX := fun j => hp j ▸ toNat_zero_lt _ _
    pWidthY := fun j => hp j ▸ toNat_zero_lt _ _
    pAbsent := fun j _ => hp j
    sWidth := fun k => hs k ▸ toNat_zero_lt _ _
    sAbsent := fun k _ => hs k }

/-- A host write of an implemented word reaches implemented bits and slots only (R86, R90). -/
theorem State.Fits.writeLoc (h : s.Fits) (v : Word) {l : Loc} (hl : l.implemented s.params = true) :
    (s.writeLoc v l).Fits := by
  cases l with
  | param => exact h
  | ctrl | status | cmd => exact h.of_keepsStore ⟨rfl, rfl, rfl, rfl, rfl, rfl, rfl⟩
  | cfgM | cfgEA | cfgEB | cfgEC | cfgW | cfgL => exact { h with }
  | pinf => exact h.writePinf v
  | cfgA k => exact { h with aWidth := setWord_lt v (Params.word_le_regw (of_decide_eq_true hl)) h.aWidth }
  | cfgB k => exact { h with bWidth := setWord_lt v (Params.word_le_regw (of_decide_eq_true hl)) h.bWidth }
  | cfgGX k => exact { h with gxWidth := setWord_lt v (Params.word_le_regw (of_decide_eq_true hl)) h.gxWidth }
  | cfgGY k => exact { h with gyWidth := setWord_lt v (Params.word_le_regw (of_decide_eq_true hl)) h.gyWidth }
  | f i k =>
    obtain ⟨hi, hk⟩ : i < s.params.nf ∧ k < s.params.wordsMax := by simpa [Loc.implemented] using hl
    exact h.setFReg hi (setWord_lt v (Params.word_le_regw hk) (h.fWidth i))
  | wide k =>
    have hk : k < 2 * s.params.wordsMax := of_decide_eq_true hl
    have hb : 32 * k + 32 ≤ 2 * s.params.regw := by unfold Params.regw; omega
    exact h.setWide (setWord_lt v hb h.wideWidth)
  | pX j k =>
    obtain ⟨hj, hk⟩ : j < s.params.np ∧ k < s.params.wordsMax := by simpa [Loc.implemented] using hl
    exact h.setPReg hj (setWord_lt v (Params.word_le_regw hk) (h.pWidthX j)) (h.pWidthY j)
  | pY j k =>
    obtain ⟨hj, hk⟩ : j < s.params.np ∧ k < s.params.wordsMax := by simpa [Loc.implemented] using hl
    exact h.setPReg hj (h.pWidthX j) (setWord_lt v (Params.word_le_regw hk) (h.pWidthY j))
  | s i k =>
    obtain ⟨hi, hk⟩ : i < s.params.ns ∧ k < s.params.wordsMax := by simpa [Loc.implemented] using hl
    exact h.setSReg hi (setWord_lt v (Params.word_le_regw hk) (h.sWidth i))
  | tX i k =>
    obtain ⟨hi, hk⟩ : i < s.params.tableSize ∧ k < s.params.wordsMax := by simpa [Loc.implemented] using hl
    have ht : (s.setTEntry i { s.tEntry i with x := setWord (s.tEntry i).x k v }).Fits :=
      h.setTEntry hi (setWord_lt v (Params.word_le_regw hk) (h.tWidthX i)) (h.tWidthY i)
    exact ht.of_keepsStore ⟨rfl, rfl, rfl, rfl, rfl, rfl, rfl⟩
  | tY i k =>
    obtain ⟨hi, hk⟩ : i < s.params.tableSize ∧ k < s.params.wordsMax := by simpa [Loc.implemented] using hl
    have ht : (s.setTEntry i { s.tEntry i with y := setWord (s.tEntry i).y k v }).Fits :=
      h.setTEntry hi (h.tWidthX i) (setWord_lt v (Params.word_le_regw hk) (h.tWidthY i))
    exact ht.of_keepsStore ⟨rfl, rfl, rfl, rfl, rfl, rfl, rfl⟩

end Sys2Proof.Machine

/-! The values the commands write are canonical, so they fit the registers (10_state.md R33). -/

namespace Sys2Proof.Machine

variable {s s' t : State} {i : Instr}

/-- The field register a command writes, if any. -/
def fieldDest : Instr → Option FReg
  | .fadd d _ _ | .fmul d _ _ | .fsqr d _ | .finv d _ | .fred d | .solvey d _ _ | .pcmp d _ => some d
  | .nop | .cfgchk | .zeroize | .fclmul _ _ | .pchk _ | .pdbl _ _ | .padd _ _ _ | .pdec _ _ _ | .bchk | .bmul _ _
  | .smul _ _ _ => none

/-- The point register a command writes, if any. -/
def pointDest : Instr → Option PReg
  | .pdbl d _ | .padd d _ _ | .pdec d _ _ | .bmul d _ | .smul d _ _ => some d
  | .nop | .cfgchk | .zeroize | .fadd _ _ _ | .fmul _ _ _ | .fsqr _ _ | .finv _ _ | .fclmul _ _ | .fred _ | .pchk _
  | .solvey _ _ _ | .pcmp _ _ | .bchk => none

theorem fOk_fieldDest {p : Params} (h : i.wf p = true) {d : FReg} (hd : fieldDest i = some d) : p.fOk d = true := by
  cases i <;> simp_all [fieldDest, Instr.wf]

theorem pOk_pointDest {p : Params} (h : i.wf p = true) {d : PReg} (hd : pointDest i = some d) : p.pOk d = true := by
  cases i <;> simp_all [pointDest, Instr.wf]

/-- The product of two polynomials of degree below `n` has degree below `2n`. -/
theorem clmul_lt {n u v : Nat} (hu : u < 2 ^ n) (hv : v < 2 ^ n) : clmul u v < 2 ^ (2 * n) := by
  by_cases hu0 : u = 0
  · subst hu0
    rw [clmul_comm, clmul_zero]
    exact Nat.two_pow_pos _
  by_cases hv0 : v = 0
  · subst hv0
    rw [clmul_zero]
    exact Nat.two_pow_pos _
  have hlu := (log2_lt_iff hu0).mpr hu
  have hlv := (log2_lt_iff hv0).mpr hv
  refine Nat.lt_log2_self.trans_le (Nat.pow_le_pow_right (by decide) ?_)
  rw [log2_clmul hu0 hv0]
  omega

/-- The compressed x coordinate of a canonical point is canonical (R200). -/
theorem compress_fst_lt {c : Cfg} {q : Pt} (h : ptCanon c q = true) : (compress c q).1 < 2 ^ c.deg := by
  cases q with
  | O => exact Nat.two_pow_pos _
  | aff x y => exact (ptCanon_aff.mp h).1

/-- What decompression gives is canonical (R33, R205). -/
theorem decompress_canon {c : Cfg} (h : polyShapeOk c = true) (hb : c.bVal < 2 ^ c.deg) {x : Nat} {sel : Bool}
    {q : Pt} (hx : x < 2 ^ c.deg) (hq : decompress c x sel = some q) : ptCanon c q = true := by
  unfold decompress at hq
  split at hq
  · cases hq
    rfl
  · obtain ⟨y, hy, rfl⟩ := Option.map_eq_some_iff.mp hq
    exact ptCanon_aff.mpr ⟨hx, ecsolve_lt h hb hy⟩

/-- A table entry that holds the coordinates of a canonical point is read as a canonical point (R39, R220). -/
theorem tpt_canon_of_entryIs {n : Nat} {r : Pt} (hr : ptCanon s.cfg r = true) (h : s.entryIs n r = true) :
    ptCanon s.cfg (s.tpt n) = true := by
  have he : ((s.tEntry n).x.toNat, (s.tEntry n).y.toNat) = enc r := of_decide_eq_true h
  have hxy : (s.tEntry n).x.toNat < 2 ^ s.cfg.deg ∧ (s.tEntry n).y.toNat < 2 ^ s.cfg.deg := by
    cases r with
    | O =>
      obtain ⟨hx, hy⟩ := Prod.mk.inj he
      exact ⟨hx ▸ Nat.two_pow_pos _, hy ▸ Nat.two_pow_pos _⟩
    | aff x y =>
      obtain ⟨hx, hy⟩ := Prod.mk.inj he
      exact hx ▸ hy ▸ ptCanon_aff.mp hr
  unfold State.tpt TableEntry.tpt
  split
  · rfl
  · exact ptCanon_aff.mpr hxy

/-- The entries BCHK's loop has passed are read as canonical points. -/
theorem tpt_canon_of_entriesFrom (hp : polyShapeOk s.cfg = true) (ha : s.cfg.aVal < 2 ^ s.cfg.deg)
    (hg : ptCanon s.cfg s.cfg.gen = true) {n j : Nat} {r : Pt} (hr : ptCanon s.cfg r = true)
    (h : s.entriesFrom n j r = true) {k : Nat} (hj : j ≤ k) (hk : k < j + n) : ptCanon s.cfg (s.tpt k) = true := by
  induction n generalizing j r with
  | zero => omega
  | succ n ih =>
    obtain ⟨he, hrest⟩ := Bool.and_eq_true_iff.mp h
    have hr' := ecadd_canon hp ha hr hg
    obtain rfl | hlt := Nat.eq_or_lt_of_le hj
    · exact tpt_canon_of_entryIs hr' he
    · exact ih hr' hrest hlt (by omega)

/-- Every entry the windowed loop can read is a canonical point, in a table that passes BCHK (R33, R220). -/
theorem tpt_canon_of_brickOk (hp : polyShapeOk s.cfg = true) (ha : s.cfg.aVal < 2 ^ s.cfg.deg)
    (h : s.brickOk = true) {k : Nat} (hk : k < 2 ^ s.cfg.window) : ptCanon s.cfg (s.tpt k) = true := by
  simp only [State.brickOk, Bool.and_eq_true] at h
  obtain ⟨⟨⟨-, ⟨hgx, hgy⟩, -⟩, h0⟩, hrest⟩ := h
  have hg : ptCanon s.cfg s.cfg.gen = true := ptCanon_aff.mpr ⟨canon_iff.mp hgx, canon_iff.mp hgy⟩
  obtain rfl | hpos := Nat.eq_zero_or_pos k
  · exact tpt_canon_of_entryIs ptCanon_O h0
  · exact tpt_canon_of_entriesFrom hp ha hg ptCanon_O hrest hpos (by omega)

/-- What the invariant and CFGV = 1 say of the field: the polynomial's shape, canonical coefficients, and room for an
element in a register (R52, R252). -/
theorem State.Inv.field (h : s.Inv) (v : s.status.cfgv = true) :
    polyShapeOk s.cfg = true ∧ s.cfg.aVal < 2 ^ s.cfg.deg ∧ s.cfg.bVal < 2 ^ s.cfg.deg ∧
      s.cfg.deg ≤ s.params.regw := by
  obtain ⟨⟨-, hm⟩, hp, -, ha, hb, -⟩ := State.cfgOk_iff.mp (h.valid.cfgv v)
  exact ⟨hp, ha, hb, hm.trans s.params.mmax_le_regw⟩

theorem toNat_ofNat_lt {n x b : Nat} (h : x < b) : (BitVec.ofNat n x).toNat < b :=
  (BitVec.toNat_ofNat x n).trans_lt ((Nat.mod_le _ _).trans_lt h)

/-- A command's write of a canonical value to an implemented Fd. -/
theorem State.Inv.fits_writeF (h : s.Inv) (v : s.status.cfgv = true) {d : FReg} (hd : s.params.fOk d = true)
    {x : Nat} (hx : x < 2 ^ s.cfg.deg) : (s.writeF d x).Fits := by
  obtain ⟨-, -, -, hm⟩ := h.field v
  exact h.fits.setFReg (of_decide_eq_true hd) (toNat_ofNat_lt (hx.trans_le (Nat.pow_le_pow_right (by decide) hm)))

/-- A command's write of a canonical point to an implemented Pd. -/
theorem State.Inv.fits_writeP (h : s.Inv) (v : s.status.cfgv = true) {d : PReg} (hd : s.params.pOk d = true)
    {q : Pt} (hq : ptCanon s.cfg q = true) : (s.writeP d q).Fits := by
  obtain ⟨-, -, -, hm⟩ := h.field v
  have hle : 2 ^ s.cfg.deg ≤ 2 ^ s.params.regw := Nat.pow_le_pow_right (by decide) hm
  cases q with
  | O => exact h.fits.setPReg (of_decide_eq_true hd) (toNat_zero_lt _ _) (toNat_zero_lt _ _)
  | aff x y =>
    obtain ⟨hx, hy⟩ := ptCanon_aff.mp hq
    exact h.fits.setPReg (of_decide_eq_true hd) (toNat_ofNat_lt (hx.trans_le hle)) (toNat_ofNat_lt (hy.trans_le hle))

/-- A successful command writes implemented bits and slots only. -/
theorem Succeeds.fits (hs : Succeeds s i s') (h : s.Inv) : s'.Fits := by
  cases hs with
  | nop => exact h.fits
  | zeroize => exact h.fits.zeroize
  | cfgchk | bchk | pchk => exact h.fits.of_keepsStore ⟨rfl, rfl, rfl, rfl, rfl, rfl, rfl⟩
  | fadd w v ha hb =>
    exact h.fits_writeF v (fOk_fieldDest w rfl) (fadd_lt (canon_iff.mp ha) (canon_iff.mp hb))
  | fmul w v => exact h.fits_writeF v (fOk_fieldDest w rfl) (fmul_lt (h.field v).1 _ _)
  | fsqr w v => exact h.fits_writeF v (fOk_fieldDest w rfl) (fsqr_lt (h.field v).1 _)
  | finv w v => exact h.fits_writeF v (fOk_fieldDest w rfl) (finv_lt (h.field v).1 _)
  | fred w v => exact h.fits_writeF v (fOk_fieldDest w rfl) (polymod_redPoly_lt (h.field v).1 _)
  | fclmul w v ha hb =>
    obtain ⟨-, -, -, hm⟩ := h.field v
    have hle : 2 ^ (2 * s.cfg.deg) ≤ 2 ^ (2 * s.params.regw) := Nat.pow_le_pow_right (by decide) (by omega)
    exact h.fits.setWide (toNat_ofNat_lt ((clmul_lt (canon_iff.mp ha) (canon_iff.mp hb)).trans_le hle))
  | solvey w v _ hy =>
    obtain ⟨hp, -, hb, -⟩ := h.field v
    exact h.fits_writeF v (fOk_fieldDest w rfl) (ecsolve_lt hp hb hy)
  | pcmp w v ha =>
    exact (h.fits_writeF v (fOk_fieldDest w rfl) (compress_fst_lt ha)).of_keepsStore
      ⟨rfl, rfl, rfl, rfl, rfl, rfl, rfl⟩
  | pdbl w v ha =>
    obtain ⟨hp, haV, -, -⟩ := h.field v
    exact h.fits_writeP v (pOk_pointDest w rfl) (ecdbl_canon hp haV ha)
  | padd w v ha hb =>
    obtain ⟨hp, haV, -, -⟩ := h.field v
    exact h.fits_writeP v (pOk_pointDest w rfl) (ecadd_canon hp haV ha hb)
  | pdec w v ha hq =>
    obtain ⟨hp, -, hb, -⟩ := h.field v
    exact h.fits_writeP v (pOk_pointDest w rfl) (decompress_canon hp hb (canon_iff.mp ha) hq)
  | bmul w v vb =>
    obtain ⟨hp, haV, -, -⟩ := h.field v
    obtain ⟨-, hbrick⟩ := h.valid.brkv vb
    exact h.fits_writeP v (pOk_pointDest w rfl)
      (windowLoop_canon hp haV _ _ (fun _ => tpt_canon_of_brickOk hp haV hbrick) _ ptCanon_O)
  | smul w v hb =>
    obtain ⟨hp, haV, -, -⟩ := h.field v
    exact h.fits_writeP v (pOk_pointDest w rfl) (mulLoop_canon hp haV _ hb _ ptCanon_O)

end Sys2Proof.Machine

/-! The invariant: reset meets it and every step keeps it. -/

namespace Sys2Proof.Machine

variable {s t : State} {i : Instr}

theorem State.Inv.of_keepsStore (h : s.Inv) (hk : KeepsStore s t) (hv : KeepsValidity s t) (hb : t.BusyClear) :
    t.Inv :=
  ⟨h.fits.of_keepsStore hk, h.valid.congr hk.params hk.cfg hk.table hv, hb⟩

/-- After a completion BUSY is 0, so the invariant asks only for the registers and the validity bits. -/
theorem State.inv_complete (hf : s.Fits) (hv : s.Valid) (e : ErrCode) : (s.complete e).Inv :=
  ⟨hf.of_keepsStore ⟨rfl, rfl, rfl, rfl, rfl, rfl, rfl⟩, hv.congr rfl rfl rfl ⟨rfl, rfl⟩, nofun⟩

/-- Every command keeps the invariant, however it ends. -/
theorem exec_inv (h : s.Inv) (he : exec i s = .next t) : t.Inv := by
  cases exec_ends he with
  | ok hs => exact State.inv_complete (hs.fits h) (hs.valid h.valid) _
  | fail e _ => exact State.inv_complete h.fits h.valid e
  | badCfg =>
    have hf : s.invalidate.Fits := h.fits.of_keepsStore ⟨rfl, rfl, rfl, rfl, rfl, rfl, rfl⟩
    exact State.inv_complete hf ⟨nofun, nofun⟩ _
  | badTable =>
    have hf : (s.setBrkv false).Fits := h.fits.of_keepsStore ⟨rfl, rfl, rfl, rfl, rfl, rfl, rfl⟩
    exact State.inv_complete hf ⟨h.valid.cfgv, nofun⟩ _

theorem engineTurn_inv (h : s.Inv) (he : engineTurn s = .next t) : t.Inv := by
  obtain ⟨-, rfl⟩ | ⟨-, ⟨i, -, he⟩ | ⟨e, -, rfl⟩⟩ := engineTurn_cases he
  · exact h
  · exact exec_inv h he
  · exact State.inv_complete h.fits h.valid _

/-- A host write that is not dropped leaves DONE and ERR 0 while BUSY (R42, R91). -/
theorem State.BusyClear.writeLoc (h : s.BusyClear) (v : Word) (l : Loc) : (s.writeLoc v l).BusyClear := by
  cases l with
  | cmd => exact fun _ => ⟨rfl, rfl⟩
  | status =>
    intro hb
    obtain ⟨hd, he⟩ := h hb
    refine ⟨?_, he⟩
    change (s.status.done && _) = false
    rw [hd, Bool.false_and]
  | _ => exact h

/-- A host write of an implemented word keeps the invariant, dropped or not. -/
theorem hostWrite_inv (h : s.Inv) {l : Loc} (hl : l.implemented s.params = true) (v : Word) :
    (hostWrite l v s).Inv := by
  obtain hw | hw := hostWrite_cases l v s <;> rw [hw]
  · exact h.of_keepsStore ⟨rfl, rfl, rfl, rfl, rfl, rfl, rfl⟩ ⟨rfl, rfl⟩ h.busyClear
  · have hi : (s.writeLoc v l).Inv := ⟨h.fits.writeLoc v hl, h.valid.writeLoc v l, h.busyClear.writeLoc v l⟩
    exact hi.of_keepsStore ⟨rfl, rfl, rfl, rfl, rfl, rfl, rfl⟩ ⟨rfl, rfl⟩ hi.busyClear

/-- What a table coordinate holds after reset stays in the implemented bits (R60). -/
theorem tableCoordAtReset_lt (p : Params) (n slot : Nat) : (tableCoordAtReset p n slot).toNat < 2 ^ p.regw := by
  rw [tableCoordAtReset, BitVec.toNat_and]
  exact Nat.and_lt_two_pow _ (toNat_ofNat_lt (Nat.sub_lt (Nat.two_pow_pos _) (by decide)))

/-- A table entry after reset: drawn values in the implemented entries, zero past them (R60). -/
theorem State.resetWith_tEntry (p : Params) (n j : Nat) :
    (State.resetWith p n).tEntry j =
      if j < p.tableSize then ⟨tableCoordAtReset p n (2 * j), tableCoordAtReset p n (2 * j + 1)⟩
      else TableEntry.zero := by
  by_cases hj : j < 256
  · simp [State.tEntry, State.resetWith, tableAtReset, hj]
  · have ht := p.tableSize_le
    rw [State.tEntry_of_ge _ (Nat.not_lt.mp hj), if_neg (by omega)]

theorem State.resetWith_fits (p : Params) (n : Nat) : (State.resetWith p n).Fits where
  fWidth i := State.resetWith_fReg p n i ▸ toNat_zero_lt _ _
  fAbsent i _ := State.resetWith_fReg p n i
  wideWidth := toNat_zero_lt _ _
  pWidthX j := State.resetWith_pReg p n j ▸ toNat_zero_lt _ _
  pWidthY j := State.resetWith_pReg p n j ▸ toNat_zero_lt _ _
  pAbsent j _ := State.resetWith_pReg p n j
  sWidth k := State.resetWith_sReg p n k ▸ toNat_zero_lt _ _
  sAbsent k _ := State.resetWith_sReg p n k
  tWidthX j := by
    rw [State.resetWith_tEntry]
    split
    · exact tableCoordAtReset_lt p n _
    · exact toNat_zero_lt _ _
  tWidthY j := by
    rw [State.resetWith_tEntry]
    split
    · exact tableCoordAtReset_lt p n _
    · exact toNat_zero_lt _ _
  tAbsent j hj := (State.resetWith_tEntry p n j).trans (if_neg (Nat.not_lt.mpr hj))
  aWidth := toNat_zero_lt _ _
  bWidth := toNat_zero_lt _ _
  gxWidth := toNat_zero_lt _ _
  gyWidth := toNat_zero_lt _ _

/-- Reset leaves the validity bits and BUSY at 0, so only the register files are to be checked. -/
theorem State.resetWith_inv (p : Params) (n : Nat) : (State.resetWith p n).Inv :=
  ⟨State.resetWith_fits p n, ⟨nofun, nofun⟩, nofun⟩

theorem unitReset_inv (s : State) : (unitReset s).Inv :=
  (State.resetWith_inv s.params s.draw).of_keepsStore ⟨rfl, rfl, rfl, rfl, rfl, rfl, rfl⟩ ⟨rfl, rfl⟩ nofun

/-- Settles O13, for every build and every table draw, and so for the default build. -/
theorem resetMeetsInvariant : Obligations.ResetMeetsInvariant :=
  ⟨State.resetWith_inv, State.resetWith_inv Params.default 0⟩

/-- Settles O14, by the four things a step can do to the state with its input consumed. -/
theorem stepKeepsInvariant : Obligations.StepKeepsInvariant := by
  intro s t h hstep
  have hc : s.consume.Inv := h.of_keepsStore ⟨rfl, rfl, rfl, rfl, rfl, rfl, rfl⟩ ⟨rfl, rfl⟩ h.busyClear
  obtain he | ⟨a, rest, l, -, -, rfl⟩ | ⟨a, rest, l, v, -, -, hl, rfl⟩ | ⟨rest, -, rfl⟩ := step_effect hstep
  · exact engineTurn_inv hc he
  · exact hc.of_keepsStore ⟨rfl, rfl, rfl, rfl, rfl, rfl, rfl⟩ ⟨rfl, rfl⟩ hc.busyClear
  · exact hostWrite_inv hc hl v
  · exact unitReset_inv _

end Sys2Proof.Machine

/-! The aperture map (20_memory.md R81, R82, R85, R86): `locate` inverts `Loc.offset`. -/

namespace Sys2Proof.Machine

variable {l : Loc}

/-- The word's slot lies in the window that R85 gives its name at the largest parameters. -/
def Loc.InWindow : Loc → Prop
  | .param | .ctrl | .status | .cmd | .cfgM | .cfgEA | .cfgEB | .cfgEC | .cfgW | .cfgL | .pinf => True
  | .cfgA k | .cfgB k | .cfgGX k | .cfgGY k => k < 32
  | .wide k => k < 64
  | .f i k | .s i k => i < 16 ∧ k < 32
  | .pX j k | .pY j k => j < 8 ∧ k < 32
  | .tX i k | .tY i k => i < 256 ∧ k < 32

/-- No build implements a word past its window (R10, R85). -/
theorem Loc.inWindow_of_implemented {p : Params} (h : l.implemented p = true) : l.InWindow := by
  have hb := p.bounds
  have ht := p.tableSize_le
  have hw : p.wordsMax ≤ 32 := by unfold Params.wordsMax; omega
  cases l with
  | param | ctrl | status | cmd | cfgM | cfgEA | cfgEB | cfgEC | cfgW | cfgL | pinf => trivial
  | cfgA | cfgB | cfgGX | cfgGY | wide | f | s | pX | pY | tX | tY =>
    simp only [Loc.implemented, Bool.and_eq_true, decide_eq_true_eq] at h
    simp only [Loc.InWindow]
    omega

theorem Loc.offset_mod_four (l : Loc) : l.offset % 4 = 0 := by
  cases l <;> simp only [Loc.offset] <;> omega

theorem Loc.InWindow.offset_lt (h : l.InWindow) : l.offset < 0x20000 := by
  cases l <;> simp only [Loc.InWindow] at h <;> simp only [Loc.offset] <;> omega

/-- The control block holds each of its words at its offset, and no word of a window. -/
theorem controlLoc_eq_some_iff {off : Nat} (h : off < 0x100) :
    controlLoc off = some l ↔ l.InWindow ∧ off = l.offset := by
  constructor
  · intro hl
    unfold controlLoc at hl
    split at hl <;> cases hl <;> exact ⟨trivial, rfl⟩
  · rintro ⟨-, ho⟩
    cases l with
    | param | ctrl | status | cmd | cfgM | cfgEA | cfgEB | cfgEC | cfgW | cfgL | pinf => exact ho ▸ rfl
    | cfgA | cfgB | cfgGX | cfgGY | wide | f | s | pX | pY | tX | tY =>
      simp only [Loc.offset] at ho
      omega

/-- Past the control block, each window's bounds and divisions say which of its slots has the offset. -/
theorem slotAt_eq_some_iff {off : Nat} (h4 : off % 4 = 0) : slotAt off = some l ↔ l.InWindow ∧ off = l.offset := by
  unfold slotAt
  by_cases h : off < 0x100
  · rw [if_pos h, controlLoc_eq_some_iff h]
  · rw [if_neg h]
    cases l <;>
      simp only [ite_eq_iff, Option.some.injEq, reduceCtorEq, Loc.cfgA.injEq, Loc.cfgB.injEq, Loc.cfgGX.injEq,
        Loc.cfgGY.injEq, Loc.f.injEq, Loc.wide.injEq, Loc.pX.injEq, Loc.pY.injEq, Loc.s.injEq, Loc.tX.injEq,
        Loc.tY.injEq, and_false, or_false, false_or, true_and, false_iff, Loc.InWindow, Loc.offset] <;>
      omega

theorem locate_eq_some_iff {p : Params} {off : Nat} :
    locate p off = some l ↔ l.implemented p = true ∧ off = l.offset := by
  unfold locate
  by_cases h4 : off % 4 = 0
  · rw [if_pos h4, Option.filter_eq_some_iff, slotAt_eq_some_iff h4]
    exact ⟨fun ⟨⟨_, ho⟩, hl⟩ => ⟨hl, ho⟩, fun ⟨hl, ho⟩ => ⟨⟨Loc.inWindow_of_implemented hl, ho⟩, hl⟩⟩
  · rw [if_neg h4]
    exact ⟨nofun, fun ⟨_, ho⟩ => absurd (ho ▸ l.offset_mod_four) h4⟩

/-- Settles O42: an implemented word lies in its window, where `slotAt` inverts `Loc.offset`. -/
theorem apertureMap : Obligations.ApertureMap := fun _ l =>
  ⟨fun _ => locate_eq_some_iff, fun hl => ⟨l.offset_mod_four, (Loc.inWindow_of_implemented hl).offset_lt⟩⟩

end Sys2Proof.Machine

/-! The step on a host access in the aperture (20_memory.md R82, R87, R88, R91, R92): one rule for each of its ends. -/

namespace Sys2Proof.Machine

variable {s : State} {l : Loc} {v : Word} {rest : List Event}

/-- The step on a 32-bit access to an implemented word (R81). -/
theorem step_implemented {k : AccessKind} (hl : l.implemented s.params = true) (h : NextAccess s l k rest) :
    step s = .next (hostAccessAt l k { s with inbox := rest }) :=
  step_nextAccess h (locate_eq_some_iff.mpr ⟨hl, rfl⟩) (Loc.inWindow_of_implemented hl).offset_lt

/-- The step on an access in the aperture that names no implemented word (R82). -/
theorem step_of_target_none {a : Access} (h : s.inbox = .access a :: rest) (ha : a.inAperture s.params = true)
    (ht : a.target s.params = none) : step s = .fault .busError := by
  unfold step
  rw [h]
  simp [hostAccess, ha, ht]

/-- An access names a word only by a width of 32 bits and the word's offset (R81). -/
theorem Access.target_eq_some {a : Access} {p : Params} (h : a.target p = some l) :
    a.width = 32 ∧ l.implemented p = true ∧ a.addr - p.base = l.offset := by
  unfold Access.target at h
  split at h
  · next hw => exact ⟨hw, locate_eq_some_iff.mp h⟩
  · cases h

/-- Settles O47: each of the three defects contradicts what an access that names a word has. -/
theorem rejectedAccessIsBusError : Obligations.RejectedAccessIsBusError := by
  intro s off width k rest hoff h hbad
  refine step_of_target_none h (by simpa [Access.inAperture, Config.apertureSize] using hoff) ?_
  refine Option.eq_none_iff_forall_ne_some.mpr fun l ht => ?_
  obtain ⟨hw, hl, ho⟩ := Access.target_eq_some ht
  have ho : off = l.offset := (Nat.add_sub_cancel_left ..).symm.trans ho
  obtain h | h | h := hbad
  · exact h hw
  · exact h (ho ▸ l.offset_mod_four)
  · exact h l hl ho.symm

/-- A word's value does not depend on the model's own fields. -/
theorem readLoc_bookkeeping (s : State) (n : Nat) (r : List Event) (a : Answer) (l : Loc) :
    { s with draw := n, inbox := r, answer := a }.readLoc l = s.readLoc l := by
  cases l <;> rfl

/-- A host write does not depend on the inputs still to come, nor change them. -/
theorem writeLoc_withInbox (s : State) (r : List Event) (v : Word) (l : Loc) :
    { s with inbox := r }.writeLoc v l = { s.writeLoc v l with inbox := r } := by
  cases l <;> rfl

/-- A read is answered with `readData` and changes only the model's own fields (R88). -/
theorem step_read (hl : l.implemented s.params = true) (h : NextAccess s l .read rest) :
    step s = .next { s with
      inbox := rest
      answer := .data (s.readData l (Config.freeWord s.draw))
      draw := if s.status.busy then s.draw + 1 else s.draw } := by
  have hd : { s with inbox := rest }.readData l (Config.freeWord s.draw) =
      s.readData l (Config.freeWord s.draw) := by
    unfold State.readData
    rw [← readLoc_bookkeeping s s.draw rest s.answer l]
  rw [step_implemented hl h, hostAccessAt, hostRead, hd]

/-- A write takes effect if no command is in flight, or if its word is CTRL or STATUS (R87, R92). -/
theorem step_write (hw : s.status.busy = false ∨ l.writableWhenBusy = true) (hl : l.implemented s.params = true)
    (h : NextAccess s l (.write v) rest) :
    step s = .next { s.writeLoc v l with inbox := rest, answer := .written } := by
  have he : hostWrite l v { s with inbox := rest } =
      { { s with inbox := rest }.writeLoc v l with answer := .written } :=
    hw.elim (hostWrite_of_idle (s := { s with inbox := rest }) l v) (hostWrite_of_writable v _)
  rw [step_implemented hl h, hostAccessAt, he, writeLoc_withInbox]

/-- A write to any other word is dropped while a command is in flight (R92). -/
theorem step_write_dropped (hb : s.status.busy = true) (hw : l.writableWhenBusy = false)
    (hl : l.implemented s.params = true) (h : NextAccess s l (.write v) rest) :
    step s = .next { s.dropWrite with inbox := rest, answer := .written } := by
  rw [step_implemented hl h, hostAccessAt, hostWrite, hb, hw]
  rfl

/-- Settles O43: the write takes effect, and its effect is the acceptance of the word. -/
theorem cmdWriteIsAccepted : Obligations.CmdWriteIsAccepted :=
  fun _ _ _ hb h => step_write (.inl hb) rfl h

/-- Settles O44: the write is dropped, or its word is one of the two that are writable in every state. -/
theorem busyWriteIsDropped : Obligations.BusyWriteIsDropped := by
  intro s l v rest hb hl h
  refine ⟨fun hc hs => step_write_dropped hb (by simp [Loc.writableWhenBusy, hc, hs]) hl h, ?_, ?_⟩
  · rintro rfl
    exact step_write (.inr rfl) hl h
  · rintro rfl
    exact step_write (.inr rfl) hl h

/-- While no command is in flight a read returns the word's value (R88). -/
theorem readData_of_idle (hb : s.status.busy = false) (l : Loc) (d : Word) : s.readData l d = s.readLoc l := by
  simp [State.readData, hb]

/-- Settles O45, by the step of a read; while idle no free value is drawn. -/
theorem readsChangeNothing : Obligations.ReadsChangeNothing := by
  intro s l rest hl h
  refine ⟨⟨_, _, step_read hl h⟩, fun hb => ?_⟩
  rw [step_read hl h, readData_of_idle hb, hb]
  rfl

/-- During BUSY a read of a word with a defined value returns it, but for STATUS (R93). -/
theorem readData_of_defined (ha : l.anyWhenBusy = false) (hs : l ≠ .status) (d : Word) :
    s.readData l d = s.readLoc l := by
  simp [State.readData, ha, hs]

theorem readData_status_of_busy (hb : s.status.busy = true) (d : Word) :
    s.readData .status d = s.status.busyWord d := by
  simp [State.readData, hb, Loc.anyWhenBusy]

/-- The bits of a STATUS read that are free during BUSY are the mask's (R93). -/
theorem Status.getLsbD_busyWord (t : Status) (d : Word) (i : Nat) :
    (t.busyWord d).getLsbD i = if statusFreeMask.getLsbD i then d.getLsbD i else t.word.getLsbD i := by
  by_cases hi : i < 32
  · simp only [Status.busyWord, BitVec.getLsbD_or, BitVec.getLsbD_and, BitVec.getLsbD_not, hi]
    cases statusFreeMask.getLsbD i <;> simp
  · simp [BitVec.getLsbD_of_ge _ _ (Nat.not_lt.mp hi)]

/-- BUSY, DONE, LOST, ERR and the reserved bits of a STATUS read are defined also during BUSY (R93). -/
theorem Status.busyWord_and (t : Status) (d : Word) :
    t.busyWord d &&& 0xFFFFFF87#32 = t.word &&& 0xFFFFFF87#32 := by
  apply BitVec.eq_of_getLsbD_eq
  intro i hi
  have hm : (0xFFFFFF87#32).getLsbD i = !statusFreeMask.getLsbD i := by
    rw [show 0xFFFFFF87#32 = ~~~statusFreeMask from rfl, BitVec.getLsbD_not]
    simp [hi]
  rw [BitVec.getLsbD_and, BitVec.getLsbD_and, Status.getLsbD_busyWord, hm]
  cases statusFreeMask.getLsbD i <;> simp

/-- ERR of a STATUS read is defined also during BUSY (R93). -/
theorem Status.extractLsb'_busyWord (t : Status) (d : Word) : (t.busyWord d).extractLsb' 8 4 = t.err.code := by
  rw [← t.extractLsb'_word.1]
  apply BitVec.eq_of_getLsbD_eq
  intro i hi
  have hm : ∀ i < 4, statusFreeMask.getLsbD (8 + i) = false := by decide
  simp [Status.getLsbD_busyWord, hm i hi]

/-- Settles O46: the invariant gives DONE = 0 and ERR = 0 while BUSY = 1. -/
theorem busyReadsOfControlWords : Obligations.BusyReadsOfControlWords := by
  intro s l rest hinv hb hl h ha
  refine ⟨_, _, step_read hl h, rfl, fun hs => readData_of_defined ha hs _, ?_⟩
  rintro rfl
  obtain ⟨hdone, herr⟩ := hinv.busyClear hb
  obtain ⟨h0, h1, h2, -⟩ := s.status.getLsbD_word
  rw [readData_status_of_busy hb]
  refine ⟨s.status.busyWord_and _, ?_, ?_, ?_, ?_⟩
  · exact (s.status.getLsbD_busyWord _ 0).trans (h0.trans hb)
  · exact (s.status.getLsbD_busyWord _ 1).trans (h1.trans hdone)
  · exact (s.status.getLsbD_busyWord _ 2).trans h2
  · rw [Status.extractLsb'_busyWord, herr]
    rfl

end Sys2Proof.Machine

/-! What a host write does to the word it names, to the other words and to STATUS (20_memory.md R84, R87, R89, R90). -/

namespace Sys2Proof.Machine

variable {s t : State} {l l' : Loc}

/-- A register of `n` bits keeps the low `n` bits of a written word. -/
theorem setWidth_setWidth_eq_and (v : Word) (n : Nat) :
    (v.setWidth n).setWidth 32 = v &&& BitVec.ofNat 32 (2 ^ n - 1) := by
  apply BitVec.eq_of_getLsbD_eq
  intro i hi
  rw [BitVec.getLsbD_and, BitVec.getLsbD_ofNat, Nat.testBit_two_pow_sub_one]
  simp [hi, Bool.and_comm]

/-- PINF reads as the INF bits of the implemented point registers (R37). -/
theorem getLsbD_pinfWord (s : State) (i : Nat) :
    s.pinfWord.getLsbD i = (decide (i < s.params.np) && (s.pReg i).inf) := by
  have hb := s.params.bounds
  rw [State.pinfWord, BitVec.getLsbD_setWidth, BitVec.getLsbD_ofBoolListLE]
  by_cases hi : i < s.params.np
  · simp [State.infBits, hi, show i < 32 by omega]
  · simp [State.infBits, hi]

theorem pinfWord_congr (hp : t.params = s.params) (h : ∀ j, (t.pReg j).inf = (s.pReg j).inf) :
    t.pinfWord = s.pinfWord := by
  apply BitVec.eq_of_getLsbD_eq
  intro i _
  rw [getLsbD_pinfWord, getLsbD_pinfWord, hp, h]

theorem pinfWord_writePinf (s : State) (v : Word) :
    (s.writePinf v).pinfWord = v &&& BitVec.ofNat 32 (2 ^ s.params.np - 1) := by
  apply BitVec.eq_of_getLsbD_eq
  intro i hi
  rw [getLsbD_pinfWord, State.pReg_writePinf, BitVec.getLsbD_and, BitVec.getLsbD_ofNat,
    Nat.testBit_two_pow_sub_one]
  by_cases hj : i < s.params.np <;> simp [hi, hj]

/-- A part of Pj after a write of Pi, inside the file. -/
theorem State.pReg_setPReg_apply {α : Type} (f : PointReg → α) (s : State) {i : Nat} (hi : i < 8) (r : PointReg)
    (j : Nat) : f ((s.setPReg i r).pReg j) = if j = i then f r else f (s.pReg j) := by
  rw [s.pReg_setPReg hi, apply_ite f]

/-- A part of T[j] after a write of T[i], inside the table. -/
theorem State.tEntry_setTEntry_apply {α : Type} (f : TableEntry → α) (s : State) {i : Nat} (hi : i < 256)
    (e : TableEntry) (j : Nat) : f ((s.setTEntry i e).tEntry j) = if j = i then f e else f (s.tEntry j) := by
  rw [s.tEntry_setTEntry hi, apply_ite f]

/-- A write of Pi that keeps a part of Pi keeps this part of every point register. -/
theorem State.pReg_setPReg_keeps {α : Type} (f : PointReg → α) {i : Nat} (hi : i < 8) {r : PointReg}
    (h : f r = f (s.pReg i)) (j : Nat) : f ((s.setPReg i r).pReg j) = f (s.pReg j) := by
  rw [State.pReg_setPReg_apply f s hi, h]
  exact ite_eq_right_iff.mpr fun hj => hj ▸ rfl

/-- A write of T[i] that keeps a part of T[i] keeps this part of every entry. -/
theorem State.tEntry_setTEntry_keeps {α : Type} (f : TableEntry → α) {i : Nat} (hi : i < 256) {e : TableEntry}
    (h : f e = f (s.tEntry i)) (j : Nat) : f ((s.setTEntry i e).tEntry j) = f (s.tEntry j) := by
  rw [State.tEntry_setTEntry_apply f s hi, h]
  exact ite_eq_right_iff.mpr fun hj => hj ▸ rfl

/-- The register file `r'` is `r` with word `k` of register `i` replaced. -/
def WritesWord (r r' : Nat → Elem) (i k : Nat) (v : Word) : Prop :=
  ∀ j, r' j = if j = i then setWord (r i) k v else r j

/-- The word written is read back (R84). -/
theorem WritesWord.getWord_self {r r' : Nat → Elem} {i k : Nat} {v : Word} (h : WritesWord r r' i k v)
    (hk : k < 32) : getWord (r' i) k = v := by
  rw [h i, if_pos rfl, getWord_setWord_self _ (by omega)]

/-- Every other word of the file stays (R90). -/
theorem WritesWord.getWord_ne {r r' : Nat → Elem} {i k j m : Nat} {v : Word} (h : WritesWord r r' i k v)
    (hne : j = i → m ≠ k) : getWord (r' j) m = getWord (r j) m := by
  rw [h j]
  split
  · next hj => rw [hj, getWord_setWord_ne _ (hne hj)]
  · rfl

theorem writesWord_f (s : State) (v : Word) {i : Nat} (hi : i < 16) (k : Nat) :
    WritesWord s.fReg (s.writeLoc v (.f i k)).fReg i k v :=
  fun j => s.fReg_setFReg hi j _

theorem writesWord_s (s : State) (v : Word) {i : Nat} (hi : i < 16) (k : Nat) :
    WritesWord s.sReg (s.writeLoc v (.s i k)).sReg i k v :=
  fun j => s.sReg_setSReg hi j _

theorem writesWord_pX (s : State) (v : Word) {i : Nat} (hi : i < 8) (k : Nat) :
    WritesWord (fun j => (s.pReg j).x) (fun j => ((s.writeLoc v (.pX i k)).pReg j).x) i k v :=
  State.pReg_setPReg_apply PointReg.x s hi _

theorem writesWord_pY (s : State) (v : Word) {i : Nat} (hi : i < 8) (k : Nat) :
    WritesWord (fun j => (s.pReg j).y) (fun j => ((s.writeLoc v (.pY i k)).pReg j).y) i k v :=
  State.pReg_setPReg_apply PointReg.y s hi _

theorem writesWord_tX (s : State) (v : Word) {i : Nat} (hi : i < 256) (k : Nat) :
    WritesWord (fun j => (s.tEntry j).x) (fun j => ((s.writeLoc v (.tX i k)).tEntry j).x) i k v :=
  State.tEntry_setTEntry_apply TableEntry.x s hi _

theorem writesWord_tY (s : State) (v : Word) {i : Nat} (hi : i < 256) (k : Nat) :
    WritesWord (fun j => (s.tEntry j).y) (fun j => ((s.writeLoc v (.tY i k)).tEntry j).y) i k v :=
  State.tEntry_setTEntry_apply TableEntry.y s hi _

/-- A written word reads as the bits it stores (R84, R87). -/
theorem readLoc_writeLoc_self (s : State) (v : Word) (hl : l.InWindow) (hp : l ≠ .param) (hs : l ≠ .status)
    (hc : l ≠ .cmd) : (s.writeLoc v l).readLoc l = v &&& storedBits s.params l := by
  have hall : v = v &&& 0xFFFFFFFF#32 := BitVec.and_allOnes.symm
  cases l with
  | param | status | cmd => contradiction
  | ctrl => exact (congrArg (BitVec.setWidth 32) BitVec.setWidth_one.symm).trans (setWidth_setWidth_eq_and v 1)
  | cfgM | cfgEA | cfgEB | cfgEC | cfgL => exact setWidth_setWidth_eq_and v 16
  | cfgW => exact setWidth_setWidth_eq_and v 4
  | pinf => exact pinfWord_writePinf s v
  | cfgA k | cfgB k | cfgGX k | cfgGY k =>
    have hk : k < 32 := hl
    exact (getWord_setWord_self _ (by omega) v).trans hall
  | wide k =>
    have hk : k < 64 := hl
    exact (getWord_setWord_self _ (by omega) v).trans hall
  | f i k => exact ((writesWord_f s v hl.1 k).getWord_self hl.2).trans hall
  | s i k => exact ((writesWord_s s v hl.1 k).getWord_self hl.2).trans hall
  | pX i k => exact ((writesWord_pX s v hl.1 k).getWord_self hl.2).trans hall
  | pY i k => exact ((writesWord_pY s v hl.1 k).getWord_self hl.2).trans hall
  | tX i k => exact ((writesWord_tX s v hl.1 k).getWord_self hl.2).trans hall
  | tY i k => exact ((writesWord_tY s v hl.1 k).getWord_self hl.2).trans hall

/-- A write leaves the value of every word but its own and STATUS; a write to CMD is an acceptance (R90). -/
theorem readLoc_writeLoc_ne (s : State) (v : Word) (hl : l.InWindow) (hne : l' ≠ l) (hs : l' ≠ .status) :
    (s.writeLoc v l).readLoc l' = s.readLoc l' := by
  cases l with
  | param => rfl
  | ctrl => cases l' with | ctrl | status => contradiction | _ => rfl
  | status => cases l' with | status => contradiction | _ => rfl
  | cmd => cases l' with | cmd | status => contradiction | _ => rfl
  | cfgM => cases l' with | cfgM | status => contradiction | _ => rfl
  | cfgEA => cases l' with | cfgEA | status => contradiction | _ => rfl
  | cfgEB => cases l' with | cfgEB | status => contradiction | _ => rfl
  | cfgEC => cases l' with | cfgEC | status => contradiction | _ => rfl
  | cfgW => cases l' with | cfgW | status => contradiction | _ => rfl
  | cfgL => cases l' with | cfgL | status => contradiction | _ => rfl
  | pinf =>
    cases l' with
    | pinf | status => contradiction
    | pX j m =>
      refine congrArg (getWord · m) ((congrArg PointReg.x (s.pReg_writePinf v j)).trans ?_)
      split <;> rfl
    | pY j m =>
      refine congrArg (getWord · m) ((congrArg PointReg.y (s.pReg_writePinf v j)).trans ?_)
      split <;> rfl
    | _ => rfl
  | cfgA k =>
    cases l' with
    | cfgA m => exact getWord_setWord_ne _ (fun h => hne (congrArg _ h)) v
    | status => contradiction
    | _ => rfl
  | cfgB k =>
    cases l' with
    | cfgB m => exact getWord_setWord_ne _ (fun h => hne (congrArg _ h)) v
    | status => contradiction
    | _ => rfl
  | cfgGX k =>
    cases l' with
    | cfgGX m => exact getWord_setWord_ne _ (fun h => hne (congrArg _ h)) v
    | status => contradiction
    | _ => rfl
  | cfgGY k =>
    cases l' with
    | cfgGY m => exact getWord_setWord_ne _ (fun h => hne (congrArg _ h)) v
    | status => contradiction
    | _ => rfl
  | wide k =>
    cases l' with
    | wide m => exact getWord_setWord_ne _ (fun h => hne (congrArg _ h)) v
    | status => contradiction
    | _ => rfl
  | f i k =>
    cases l' with
    | f j m => exact (writesWord_f s v hl.1 k).getWord_ne fun hj hm => hne (congrArg₂ _ hj hm)
    | status => contradiction
    | _ => rfl
  | s i k =>
    cases l' with
    | s j m => exact (writesWord_s s v hl.1 k).getWord_ne fun hj hm => hne (congrArg₂ _ hj hm)
    | status => contradiction
    | _ => rfl
  | pX i k =>
    cases l' with
    | pX j m => exact (writesWord_pX s v hl.1 k).getWord_ne fun hj hm => hne (congrArg₂ _ hj hm)
    | pY j m => exact congrArg (getWord · m) (State.pReg_setPReg_keeps PointReg.y hl.1 (by rfl) j)
    | pinf => exact pinfWord_congr rfl (State.pReg_setPReg_keeps PointReg.inf hl.1 (by rfl))
    | status => contradiction
    | _ => rfl
  | pY i k =>
    cases l' with
    | pY j m => exact (writesWord_pY s v hl.1 k).getWord_ne fun hj hm => hne (congrArg₂ _ hj hm)
    | pX j m => exact congrArg (getWord · m) (State.pReg_setPReg_keeps PointReg.x hl.1 (by rfl) j)
    | pinf => exact pinfWord_congr rfl (State.pReg_setPReg_keeps PointReg.inf hl.1 (by rfl))
    | status => contradiction
    | _ => rfl
  | tX i k =>
    cases l' with
    | tX j m => exact (writesWord_tX s v hl.1 k).getWord_ne fun hj hm => hne (congrArg₂ _ hj hm)
    | tY j m => exact congrArg (getWord · m) (State.tEntry_setTEntry_keeps TableEntry.y hl.1 (by rfl) j)
    | status => contradiction
    | _ => rfl
  | tY i k =>
    cases l' with
    | tY j m => exact (writesWord_tY s v hl.1 k).getWord_ne fun hj hm => hne (congrArg₂ _ hj hm)
    | tX j m => exact congrArg (getWord · m) (State.tEntry_setTEntry_keeps TableEntry.x hl.1 (by rfl) j)
    | status => contradiction
    | _ => rfl

/-- A write to a word that stores leaves the fields of STATUS but CFGV and BRKV (R87, R89). -/
theorem writeLoc_keepsStatus (s : State) (v : Word) (hs : l ≠ .status) (hc : l ≠ .cmd) :
    (s.writeLoc v l).status.busy = s.status.busy ∧ (s.writeLoc v l).status.done = s.status.done ∧
    (s.writeLoc v l).status.lost = s.status.lost ∧ (s.writeLoc v l).status.flag = s.status.flag ∧
    (s.writeLoc v l).status.sel = s.status.sel ∧ (s.writeLoc v l).status.err = s.status.err := by
  cases l with
  | status | cmd => contradiction
  | _ => exact ⟨rfl, rfl, rfl, rfl, rfl, rfl⟩

/-- Settles O48, by what the write does to its own word, to the others and to STATUS. -/
theorem writtenWordIsReadBack : Obligations.WrittenWordIsReadBack := by
  intro s l v rest hb hl hp hs hc h
  have hw := Loc.inWindow_of_implemented hl
  obtain ⟨hbusy, hrest⟩ := writeLoc_keepsStatus s v hs hc
  refine ⟨_, step_write (.inl hb) hl h, ?_, fun l' _ hne hs' => ?_, hbusy.trans hb, hrest⟩
  · exact (readLoc_bookkeeping _ _ _ _ _).trans (readLoc_writeLoc_self s v hw hp hs hc)
  · exact (readLoc_bookkeeping _ _ _ _ _).trans (readLoc_writeLoc_ne s v hw hne hs')

/-- Which validity bits a write clears (R52, R53, R89). -/
theorem writeLoc_clears (s : State) (v : Word) (l : Loc) :
    (clearsBoth l = true → (s.writeLoc v l).status.cfgv = false ∧ (s.writeLoc v l).status.brkv = false) ∧
    (clearsBrick l = true →
      (s.writeLoc v l).status.cfgv = s.status.cfgv ∧ (s.writeLoc v l).status.brkv = false) ∧
    (clearsBoth l = false → clearsBrick l = false → KeepsValidity s (s.writeLoc v l)) := by
  cases l with
  | cfgM | cfgEA | cfgEB | cfgEC | cfgA | cfgB => exact ⟨fun _ => ⟨rfl, rfl⟩, nofun, nofun⟩
  | cfgW | cfgL | cfgGX | cfgGY | tX | tY => exact ⟨nofun, fun _ => ⟨rfl, rfl⟩, nofun⟩
  | param | ctrl | status | cmd | pinf | f | wide | pX | pY | s => exact ⟨nofun, nofun, fun _ _ => ⟨rfl, rfl⟩⟩

/-- Settles O49: an idle unit's write takes effect, and the bits it clears depend on its word alone. -/
theorem writesClearValidity : Obligations.WritesClearValidity := by
  intro s l v rest hb hl h
  obtain ⟨hboth, hbrick, hkeep⟩ := writeLoc_clears s v l
  exact ⟨_, step_write (.inl hb) hl h, hboth, hbrick, fun h1 h2 => ⟨(hkeep h1 h2).cfgv, (hkeep h1 h2).brkv⟩⟩

end Sys2Proof.Machine

/-! The decoder said once, and the rows of the opcode table as those of the commands (30_encoding.md R113, R115). -/

namespace Sys2Proof

variable {p : Params} {w : Word} {i : Instr}

/-- The three conditions under which a word is legal (R116). -/
theorem decode_eq_ok_iff :
    decode p w = .ok i ↔ decodeOpcode w = some i ∧ w &&& i.format.zeroMask = 0#32 ∧ i.wf p = true := by
  unfold decode
  cases decodeOpcode w with
  | none => simp
  | some j =>
    simp only [Option.some.injEq]
    constructor
    · intro h
      split_ifs at h with hz hwf
      cases h
      exact ⟨rfl, not_not.mp hz, hwf⟩
    · rintro ⟨rfl, hz, hwf⟩
      simp [hz, hwf]

/-- A word decodes to a command of its own opcode (R113). -/
theorem fieldOPC_of_decodeOpcode (h : decodeOpcode w = some i) : fieldOPC w = i.opcode := by
  apply BitVec.eq_of_toNat_eq
  unfold decodeOpcode at h
  dsimp only at h
  split at h <;> cases h <;> assumption

/-- An assigned opcode decodes, to a command of the same format whatever its operands (R113). -/
theorem decodeOpcode_of_fieldOPC (h : fieldOPC w = i.opcode) :
    ∃ j, decodeOpcode w = some j ∧ j.format = i.format := by
  rw [decodeOpcode, h]
  cases i <;> exact ⟨_, rfl, rfl⟩

/-- A word is its OPC and the 24 bits below it. -/
theorem word_eq_append_iff {opc : BitVec 8} {low : BitVec 24} :
    w = opc ++ low ↔ fieldOPC w = opc ∧ w.extractLsb' 0 24 = low := by
  constructor
  · rintro rfl
    exact ⟨BitVec.extractLsb'_append_eq_left, BitVec.extractLsb'_append_eq_right⟩
  · rintro ⟨rfl, rfl⟩
    exact (BitVec.extractLsb'_append_extractLsb' (w := 8) (len := 24)).symm

/-- Every mask covers OPC (R115). -/
theorem fieldOPC_and_mask (w : Word) (f : Format) : fieldOPC (w &&& f.mask) = fieldOPC w := by
  have hall : f.mask.extractLsb' 24 8 = BitVec.allOnes 8 := by cases f <;> rfl
  simp only [fieldOPC, BitVec.extractLsb'_and, hall, BitVec.and_allOnes]

/-- The must-be-zero bits of every format lie below OPC (R111). -/
theorem fieldOPC_and_zeroMask (w : Word) (f : Format) : fieldOPC (w &&& f.zeroMask) = 0#8 := by
  have hnone : f.zeroMask.extractLsb' 24 8 = 0#8 := by cases f <;> rfl
  simp only [fieldOPC, BitVec.extractLsb'_and, hnone, BitVec.and_zero]

/-- Below OPC, a mask is the must-be-zero bits of its format (R115). -/
theorem low_and_mask (w : Word) (f : Format) :
    (w &&& f.mask).extractLsb' 0 24 = (w &&& f.zeroMask).extractLsb' 0 24 := by
  have hlow : f.mask.extractLsb' 0 24 = f.zeroMask.extractLsb' 0 24 := by cases f <;> rfl
  rw [BitVec.extractLsb'_and, BitVec.extractLsb'_and, hlow]

/-- The row of the opcode table a command belongs to: its opcode with zeros below, and the mask of its format. -/
def Instr.row (i : Instr) : Word × Word := (i.opcode ++ 0#24, i.format.mask)

/-- A word matches a command's row exactly if it has the command's opcode and the zeros of its format (R115). -/
theorem matches_row_iff : w &&& i.row.2 = i.row.1 ↔ fieldOPC w = i.opcode ∧ w &&& i.format.zeroMask = 0#32 := by
  have hzero : w &&& i.format.zeroMask = 0#8 ++ 0#24 ↔ (w &&& i.format.zeroMask).extractLsb' 0 24 = 0#24 := by
    rw [word_eq_append_iff, fieldOPC_and_zeroMask]
    exact and_iff_right rfl
  rw [show (0#32 : Word) = 0#8 ++ 0#24 from rfl, hzero, ← low_and_mask, ← fieldOPC_and_mask w i.format]
  exact word_eq_append_iff

/-- One command for each row of the opcode table. -/
def rowCommands : List Instr :=
  [.nop, .cfgchk, .zeroize, .fadd 0 0 0, .fmul 0 0 0, .fsqr 0 0, .finv 0 0, .fclmul 0 0, .fred 0, .pchk 0, .pdbl 0 0,
   .padd 0 0 0, .solvey 0 0 false, .pcmp 0 0, .pdec 0 0 false, .bchk, .bmul 0 0, .smul 0 0 0]

theorem opcodeRows_eq : opcodeRows = rowCommands.map Instr.row := by decide

/-- Every command belongs to a row of the table, whatever its operands. -/
theorem row_mem_opcodeRows (i : Instr) : i.row ∈ opcodeRows := by
  cases i <;> simp only [Instr.row, Instr.opcode, Instr.format] <;> decide

/-- The opcode of a word is assigned and its must-be-zero bits are zero exactly if it matches a row of the table. -/
theorem matches_some_row_iff : (∃ r ∈ opcodeRows, w &&& r.2 = r.1) ↔
    ∃ i, decodeOpcode w = some i ∧ w &&& i.format.zeroMask = 0#32 := by
  constructor
  · rintro ⟨r, hr, hm⟩
    rw [opcodeRows_eq] at hr
    obtain ⟨i, -, rfl⟩ := List.mem_map.mp hr
    obtain ⟨hopc, hz⟩ := matches_row_iff.mp hm
    obtain ⟨j, hj, hf⟩ := decodeOpcode_of_fieldOPC hopc
    exact ⟨j, hj, hf ▸ hz⟩
  · rintro ⟨i, hi, hz⟩
    exact ⟨i.row, row_mem_opcodeRows i, matches_row_iff.mpr ⟨fieldOPC_of_decodeOpcode hi, hz⟩⟩

/-- The rows of the table have different opcodes, so no word matches two of them. -/
theorem opcodeRows_disjoint : opcodeRows.Pairwise fun r q => ∀ w : Word, w &&& r.2 = r.1 → w &&& q.2 ≠ q.1 := by
  have hne : rowCommands.Pairwise fun i j => i.opcode ≠ j.opcode := by decide
  rw [opcodeRows_eq]
  refine hne.map Instr.row fun i j hij w hi hj => ?_
  obtain ⟨hopc, -⟩ := matches_row_iff.mp hi
  obtain ⟨hopc', -⟩ := matches_row_iff.mp hj
  exact hij (hopc.symm.trans hopc')

/-- Settles O4: a row fixes the opcode and the zeros of its format, which the decoder tests before the indices. -/
theorem legalWordsAreTableRows : Obligations.LegalWordsAreTableRows := by
  refine ⟨fun p w => ?_, opcodeRows_disjoint⟩
  rw [matches_some_row_iff]
  constructor
  · rintro ⟨i, h⟩
    obtain ⟨hi, hz, hwf⟩ := decode_eq_ok_iff.mp h
    exact ⟨⟨i, hi, hz⟩, fun j hj => Option.some.inj (hi.symm.trans hj) ▸ hwf⟩
  · rintro ⟨⟨i, hi, hz⟩, hwf⟩
    exact ⟨i, decode_eq_ok_iff.mpr ⟨hi, hz, hwf i hi⟩⟩

end Sys2Proof

/-! The completion of an illegal command word (30_encoding.md R116). -/

namespace Sys2Proof.Machine

variable {s : State}

/-- The engine's turn on a command word that does not decode. -/
theorem engineTurn_of_error {e : DecodeError} (hb : s.status.busy = true) (hf : fetch s = .error e) :
    engineTurn s = .next (s.complete .illegalCommand) := by
  simp [engineTurn, hb, hf, illegalCompletion, Reply.finish]

/-- A word of one of the three illegal cases of R116 does not decode. -/
theorem fetch_error_of_illegal (h : decodeOpcode s.cmd = none ∨
    ∃ i, decodeOpcode s.cmd = some i ∧ (s.cmd &&& i.format.zeroMask ≠ 0#32 ∨ i.wf s.params = false)) :
    ∃ e, fetch s = .error e := by
  cases hf : fetch s with
  | error e => exact ⟨e, rfl⟩
  | ok i =>
    obtain ⟨hi, hz, hwf⟩ := decode_eq_ok_iff.mp hf
    obtain hn | ⟨j, hj, hbad⟩ := h
    · exact absurd (hi.symm.trans hn) nofun
    · obtain rfl := Option.some.inj (hi.symm.trans hj)
      obtain hz' | hwf' := hbad
      · exact absurd hz hz'
      · exact absurd (hwf.symm.trans hwf') nofun

/-- Settles O6: an illegal word does not decode, and both forms of the turn answer that with the error completion. -/
theorem illegalWordCompletesIllegal : Obligations.IllegalWordCompletesIllegal := by
  intro s rest hb hill
  obtain ⟨e, hf⟩ := fetch_error_of_illegal hill
  refine ⟨fun hi => ⟨_, ?_, failsWith_raise _ _⟩, fun hi => ⟨_, ?_, failsWith_raise _ _⟩⟩
  · rw [step, hi]
    exact engineTurn_of_error hb hf
  · rw [step, hi]
    exact engineTurn_of_error (s := { s with inbox := rest }) hb hf

end Sys2Proof.Machine

/-! A command's end from the checks it passes or fails (60_exceptions.md R274): the converse of `exec_ends`. -/

namespace Sys2Proof.Machine

variable {s s' : State} {i : Instr} {k : Reply}

/-- A command that passes its checks completes with its effects. -/
theorem Succeeds.exec_eq (h : Succeeds s i s') : exec i s = .next (s'.complete .none) := by
  cases h with
  | nop | zeroize => rfl
  | cfgchk h => simp [exec, execCfgchk, needLegal_of (i := .cfgchk) rfl, h, Reply.finish]
  | bchk v h => simp [exec, execBchk, needLegal_of (i := .bchk) rfl, needCfgv, v, h, Reply.finish]
  | _ =>
    simp [exec, execFadd, execFmul, execFsqr, execFinv, execFclmul, execFred, execPchk, execPdbl, execPadd, execSolvey,
      execPcmp, execPdec, execBmul, execSmul, needLegal, needCfgv, needBrkv, needCanon, Reply.finish, *]

theorem raises_of_exec_eq {e : ErrCode} (h : exec i s = (raise e s).finish) : Raises i s e :=
  ⟨_, h, failsWith_raise e s⟩

/-- The gate of a command that needs a valid configuration (R274 steps 1 and 2). -/
theorem gateErrors_of_exec (h : exec i s = (needLegal i s (needCfgv s k)).finish) : GateErrors i s := by
  refine ⟨fun w => raises_of_exec_eq ?_, fun w v => raises_of_exec_eq ?_⟩
  · rw [h, needLegal, w, check_false]
  · rw [h, needLegal_of w, needCfgv, v, check_false]

theorem exec_of_passesGate (g : PassesGate i s) (h : exec i s = (needLegal i s (needCfgv s k)).finish) :
    exec i s = k.finish := by
  obtain ⟨w, v⟩ := g
  rw [h, needLegal_of w, needCfgv_of v]

/-- A command that passes the gate and has an operand that is not canonical (R274 step 4). -/
theorem raises_of_not_canon {ok : Bool} (h : exec i s = (needLegal i s (needCfgv s (needCanon ok s k))).finish)
    (g : PassesGate i s) (hc : ok = false) : Raises i s .nonCanonicalOperand :=
  raises_of_exec_eq (by rw [exec_of_passesGate g h, needCanon, hc, check_false])

end Sys2Proof.Machine

/-! Congruence modulo `f`, and extended Euclid: what `polyinv` computes (assumption log 9). -/

namespace Sys2Proof.Machine

open Polynomial

variable {f u : Nat}

theorem shiftLeft_eq_clmul (v n : Nat) : v <<< n = clmul (2 ^ n) v := toPoly_injective (by simp [mul_comm])

theorem size_eq_log2_add_one {v : Nat} (h : v ≠ 0) : v.size = v.log2 + 1 :=
  le_antisymm (Nat.size_le.mpr Nat.lt_log2_self) (Nat.lt_size.mpr (Nat.log2_self_le h))

/-- Two polynomials of one degree: their leading terms cancel. -/
theorem size_xor_lt {v w : Nat} (hv : v ≠ 0) (h : w.size = v.size) : (v ^^^ w).size < v.size := by
  have hw : w ≠ 0 := by rintro rfl; exact hv (Nat.size_eq_zero.mp h.symm)
  have hl : w.log2 = v.log2 := by rw [size_eq_log2_add_one hv, size_eq_log2_add_one hw] at h; omega
  rw [size_eq_log2_add_one hv, Nat.lt_succ_iff, Nat.size_le]
  refine Nat.lt_pow_two_of_testBit _ fun i hi => ?_
  rw [Nat.testBit_xor]
  obtain rfl | hlt := Nat.eq_or_lt_of_le hi
  · rw [testBit_log2 hv, ← hl, testBit_log2 hw]; rfl
  · rw [testBit_eq_false_of_log2_lt hlt, testBit_eq_false_of_log2_lt (hl ▸ hlt)]; rfl

/-- What a run of extended Euclid on `u` modulo `f` keeps: `t0` and `t1` are the multiples of `u` that give `r0` and
`r1`, whose common divisors are units. -/
structure EuclidInv (f u r0 t0 r1 t1 : Nat) : Prop where
  mul0 : polymod (clmul u t0) f = polymod r0 f
  mul1 : polymod (clmul u t1) f = polymod r1 f
  coprime : IsCoprime (toPoly r0) (toPoly r1)

variable {r0 t0 r1 t1 : Nat}

theorem EuclidInv.init (hf : f ≠ 0) (h : IsCoprime (toPoly f) (toPoly u)) : EuclidInv f u f 0 u 1 where
  mul0 := by
    rw [clmul_zero, polymod_of_lt hf (Nat.two_pow_pos _), polymod_unique (q := 1) hf (Nat.two_pow_pos _)]
    rw [clmul_comm, clmul_one, Nat.xor_zero]
  mul1 := by rw [clmul_one]
  coprime := h

theorem EuclidInv.swap (h : EuclidInv f u r0 t0 r1 t1) : EuclidInv f u r1 t1 r0 t0 :=
  ⟨h.mul1, h.mul0, h.coprime.symm⟩

theorem EuclidInv.cancel (hf : f ≠ 0) (h : EuclidInv f u r0 t0 r1 t1) (k : Nat) :
    EuclidInv f u (r0 ^^^ (r1 <<< k)) (t0 ^^^ (t1 <<< k)) r1 t1 where
  mul0 := by
    have hk : polymod (clmul u (t1 <<< k)) f = polymod (r1 <<< k) f := by
      rw [shiftLeft_eq_clmul, shiftLeft_eq_clmul, ← clmul_assoc, clmul_comm u, clmul_assoc,
        ← polymod_clmul_right hf, h.mul1, polymod_clmul_right hf]
    rw [clmul_xor, polymod_xor hf, polymod_xor hf, h.mul0, hk]
  mul1 := h.mul1
  coprime := by
    rw [toPoly_xor, toPoly_shiftLeft]
    exact IsCoprime.add_mul_left_left h.coprime _

/-- The run ends with the unit as the common divisor, so its cofactor is the inverse. -/
theorem EuclidInv.done (h : EuclidInv f u r0 t0 0 t1) : polymod (clmul u t0) f = polymod 1 f := by
  have hunit : IsUnit (toPoly r0) := isCoprime_zero_right.mp (toPoly_zero ▸ h.coprime)
  have h0 : r0 ≠ 0 := fun h0 => not_isUnit_zero (toPoly_eq_zero.mpr h0 ▸ hunit)
  have h1 : r0 = 1 := toPoly_injective (by rw [(toPoly_monic h0).isUnit_iff.mp hunit, toPoly_one])
  rw [h.mul0, h1]

/-- How many steps a run of extended Euclid still takes, at most: two for each bit, and an exchange. -/
def euclidBound (r0 r1 : Nat) : Nat := 2 * (r0.size + r1.size) + if r0.size < r1.size then 1 else 0

theorem euclidBound_swap (h : r0.size < r1.size) : euclidBound r1 r0 < euclidBound r0 r1 := by
  unfold euclidBound
  rw [if_pos h, if_neg (by omega)]
  omega

theorem euclidBound_lt (h : t0.size < r0.size) (hr : r1.size ≤ r0.size) : euclidBound t0 r1 < euclidBound r0 r1 := by
  unfold euclidBound
  rw [if_neg (show ¬r0.size < r1.size by omega)]
  split <;> omega

/-- Extended Euclid with enough fuel ends at the inverse. -/
theorem invFuel_spec (hf : f ≠ 0) {n : Nat} (h : EuclidInv f u r0 t0 r1 t1) (hn : euclidBound r0 r1 < n) :
    polymod (clmul u (invFuel n r0 t0 r1 t1)) f = polymod 1 f := by
  induction n generalizing r0 t0 r1 t1 with
  | zero => omega
  | succ n ih =>
    by_cases h1 : r1 = 0
    · subst h1
      simpa [invFuel] using h.done
    have hs1 := size_eq_log2_add_one h1
    rw [invFuel, if_neg h1]
    split
    case isTrue hlt =>
      have hs : r0.size < r1.size := by
        obtain rfl | hlt := hlt
        · simp [hs1]
        · by_cases h0 : r0 = 0
          · simp [h0, hs1]
          · rw [size_eq_log2_add_one h0]; omega
      exact ih h.swap (by have := euclidBound_swap hs; omega)
    case isFalse hge =>
      obtain ⟨h0, hle⟩ := not_or.mp hge
      have hs0 := size_eq_log2_add_one h0
      have hs : (r1 <<< (r0.log2 - r1.log2)).size = r0.size := by rw [Nat.size_shiftLeft h1]; omega
      have hb := euclidBound_lt (r1 := r1) (size_xor_lt h0 hs) (by omega)
      exact ih (h.cancel hf _) (by omega)

/-- `polyinv` is an inverse modulo `f` of every `u` prime to `f`. -/
theorem polymod_clmul_polyinv (hf : f ≠ 0) (hu : u ≠ 0) (h : IsCoprime (toPoly f) (toPoly u)) :
    polymod (clmul u (polyinv u f)) f = polymod 1 f := by
  rw [polyinv, polymod_clmul_right hf]
  refine invFuel_spec hf (.init hf h) ?_
  unfold euclidBound
  rw [size_eq_log2_add_one hf, size_eq_log2_add_one hu]
  split <;> omega

end Sys2Proof.Machine

/-! Rabin's test accepts irreducible polynomials only (46_control.md R252; assumption log 10). -/

namespace Sys2Proof.Machine

open Polynomial

variable {f : Nat}

theorem dvd_polymod_sub (hf : f ≠ 0) (w : Nat) : toPoly f ∣ toPoly (polymod w f) - toPoly w := by
  rw [toPoly_polymod hf, modByMonic_eq_sub_mul_div, sub_sub_cancel_left]
  exact (dvd_mul_right _ _).neg_right

/-- Repeated squaring is a power of two, modulo `f`. -/
theorem dvd_sqrIter_sub_pow (hf : f ≠ 0) (u n : Nat) :
    toPoly f ∣ toPoly (sqrIter f u n) - toPoly u ^ 2 ^ n := by
  induction n generalizing u with
  | zero => simp [sqrIter]
  | succ n ih =>
    have h := (dvd_polymod_sub hf (clmul u u)).trans (sub_dvd_pow_sub_pow _ _ (2 ^ n))
    have h2 := dvd_add (ih (polymod (clmul u u) f)) h
    rwa [sub_add_sub_cancel, toPoly_clmul, ← sq, ← pow_mul, ← pow_succ'] at h2

/-- Euclid keeps every common divisor, however many divisions it makes. -/
theorem dvd_polygcdFuel {g : (ZMod 2)[X]} {a b : Nat} (n : Nat) (ha : g ∣ toPoly a) (hb : g ∣ toPoly b) :
    g ∣ toPoly (polygcdFuel n a b) := by
  induction n generalizing a b with
  | zero => exact ha
  | succ n ih =>
    rw [polygcdFuel]
    split
    · exact ha
    · next hb0 =>
      refine ih hb ?_
      have h := (hb.trans (dvd_polymod_sub hb0 a)).add ha
      rwa [sub_add_cancel] at h

/-- The trial division of `primeDivisors` decides primality. -/
theorem prime_iff_trial_division {p : Nat} : p.Prime ↔ 2 ≤ p ∧ ∀ q < p, q < 2 ∨ p % q ≠ 0 := by
  rw [Nat.prime_def_lt']
  refine and_congr_right fun _ => forall_congr' fun q => ?_
  rw [Nat.dvd_iff_mod_eq_zero]
  omega

theorem mem_primeDivisors {m p : Nat} (hm : m ≠ 0) : p ∈ primeDivisors m ↔ p.Prime ∧ p ∣ m := by
  simp only [primeDivisors, List.mem_filter, List.mem_range, Bool.and_eq_true, decide_eq_true_eq, List.all_eq_true,
    Bool.or_eq_true, prime_iff_trial_division, Nat.dvd_iff_mod_eq_zero]
  have := fun h : m % p = 0 => Nat.le_of_dvd (Nat.pos_of_ne_zero hm) (Nat.dvd_of_mod_eq_zero h)
  constructor
  · rintro ⟨-, ⟨h2, hd⟩, hq⟩
    exact ⟨⟨h2, hq⟩, hd⟩
  · rintro ⟨⟨h2, hq⟩, hd⟩
    exact ⟨by have := this hd; omega, ⟨h2, hd⟩, hq⟩

/-- A proper divisor of `m` divides `m / p` for a prime `p` that divides `m`. -/
theorem exists_prime_dvd_div {d m : Nat} (hd : d ∣ m) (hne : d ≠ m) : ∃ p, p.Prime ∧ p ∣ m ∧ d ∣ m / p := by
  obtain ⟨k, rfl⟩ := hd
  obtain ⟨p, hp, hpk⟩ := Nat.exists_prime_and_dvd (n := k) (by rintro rfl; simp at hne)
  exact ⟨p, hp, hpk.mul_left d, Nat.dvd_div_of_mul_dvd (by rw [mul_comm]; exact Nat.mul_dvd_mul_left d hpk)⟩

/-- An irreducible factor of `f` divides a `sqrIter f 2 n - x` exactly if its degree divides `n`. -/
theorem natDegree_dvd_iff_dvd_sqrIter {g : (ZMod 2)[X]} (hg : Irreducible g) (hf : f ≠ 0) (hgf : g ∣ toPoly f)
    (n : Nat) : g.natDegree ∣ n ↔ g ∣ toPoly (sqrIter f 2 n ^^^ 2) := by
  rw [hg.natDegree_dvd_iff_dvd_X_pow_card_pow_sub_X, Nat.card_zmod, toPoly_xor, toPoly_two, ← CharTwo.sub_eq_add]
  have h := hgf.trans (dvd_sqrIter_sub_pow hf 2 n)
  rw [toPoly_two] at h
  rw [← dvd_add_right h, sub_add_sub_cancel]

theorem irreducible_of_rabin {m : Nat} (hm : 2 ≤ m) (hd : f.log2 = m) (h : rabin f m = true) :
    Irreducible (toPoly f) := by
  have hf : f ≠ 0 := by rintro rfl; rw [Nat.log2_zero] at hd; omega
  simp only [rabin, Bool.and_eq_true, decide_eq_true_eq, List.all_eq_true] at h
  obtain ⟨hx, hgcd⟩ := h
  obtain ⟨g, hg, hgf⟩ := exists_irreducible_of_natDegree_pos (f := toPoly f) (by rw [toPoly_natDegree]; omega)
  have hdvd : g.natDegree ∣ m := by
    rw [natDegree_dvd_iff_dvd_sqrIter hg hf hgf, hx, Nat.xor_self, toPoly_zero]
    exact dvd_zero g
  have hdeg : g.natDegree = m := by
    by_contra hne
    obtain ⟨p, hp, hpm, hgp⟩ := exists_prime_dvd_div hdvd hne
    have hg1 := dvd_polygcdFuel ((sqrIter f 2 (m / p) ^^^ 2).log2 + 2) hgf
      ((natDegree_dvd_iff_dvd_sqrIter hg hf hgf _).mp hgp)
    rw [← polygcd, hgcd p ((mem_primeDivisors (by omega)).mpr ⟨hp, hpm⟩), toPoly_one] at hg1
    exact hg.not_isUnit (isUnit_of_dvd_one hg1)
  refine (associated_of_dvd_of_natDegree_le hgf (toPoly_eq_zero.not.mpr hf) ?_).irreducible hg
  rw [toPoly_natDegree, hd, hdeg]

end Sys2Proof.Machine

/-! The laws of the field a valid configuration names (41_field.md R145, R149). -/

namespace Sys2Proof.Machine

variable {c : Cfg} {s : State}

/-- The remainder modulo the reduction polynomial, by its defining property (R14). -/
theorem isRemainder_polymod (h : polyShapeOk c = true) (w : Nat) :
    IsRemainder w (redPoly c) c.deg (polymod w (redPoly c)) :=
  ⟨polymod_redPoly_lt h w, (polymod_spec (redPoly_ne_zero h) w).2⟩

theorem polymod_redPoly_of_lt (h : polyShapeOk c = true) {u : Nat} (hu : u < 2 ^ c.deg) : polymod u (redPoly c) = u :=
  polymod_of_lt (redPoly_ne_zero h) (by rwa [redPoly_log2 h])

theorem deg_pos_of_polyShapeOk (h : polyShapeOk c = true) : 0 < c.deg := by
  obtain ⟨-, -, -, hea⟩ | ⟨hea, -⟩ := polyShapeOk_iff.mp h <;> omega

theorem fmul_comm (c : Cfg) (u v : Nat) : fmul c u v = fmul c v u := by rw [fmul, clmul_comm, fmul]

theorem fmul_assoc (h : polyShapeOk c = true) (u v w : Nat) : fmul c (fmul c u v) w = fmul c u (fmul c v w) := by
  have hf := redPoly_ne_zero h
  rw [fmul, fmul, polymod_clmul_left hf, clmul_assoc, ← polymod_clmul_right hf, fmul, fmul]

theorem fmul_fadd (h : polyShapeOk c = true) (u v w : Nat) : fmul c u (fadd v w) = fadd (fmul c u v) (fmul c u w) := by
  rw [fmul, fadd, clmul_xor, polymod_xor (redPoly_ne_zero h), fadd, fmul, fmul]

theorem fmul_one (h : polyShapeOk c = true) {u : Nat} (hu : u < 2 ^ c.deg) : fmul c u 1 = u := by
  rw [fmul, clmul_one, polymod_redPoly_of_lt h hu]

theorem fmul_zero (h : polyShapeOk c = true) (u : Nat) : fmul c u 0 = 0 := by
  rw [fmul, clmul_zero, polymod_redPoly_of_lt h (Nat.two_pow_pos _)]

/-- Squaring is additive in characteristic 2. -/
theorem clmul_self_xor (u v : Nat) : clmul (u ^^^ v) (u ^^^ v) = clmul u u ^^^ clmul v v :=
  toPoly_injective (by simp [CharTwo.add_mul_self])

theorem fsqr_fadd (h : polyShapeOk c = true) (u v : Nat) : fsqr c (fadd u v) = fadd (fsqr c u) (fsqr c v) := by
  rw [fsqr, fmul, fadd, clmul_self_xor, polymod_xor (redPoly_ne_zero h), fadd, fsqr, fsqr, fmul, fmul]

/-- A nonzero canonical value is prime to an irreducible reduction polynomial. -/
theorem isCoprime_redPoly (h : polyShapeOk c = true) (hi : Irreducible (toPoly (redPoly c))) {u : Nat} (hu0 : u ≠ 0)
    (hu : u < 2 ^ c.deg) : IsCoprime (toPoly (redPoly c)) (toPoly u) := by
  refine hi.coprime_iff_not_dvd.mpr (Polynomial.not_dvd_of_natDegree_lt (toPoly_eq_zero.not.mpr hu0) ?_)
  rw [toPoly_natDegree, toPoly_natDegree, redPoly_log2 h]
  exact (log2_lt_iff hu0).mpr hu

theorem fmul_finv (h : polyShapeOk c = true) (hi : Irreducible (toPoly (redPoly c))) {u : Nat} (hu0 : u ≠ 0)
    (hu : u < 2 ^ c.deg) : fmul c u (finv c u) = 1 := by
  rw [fmul, finv, polymod_clmul_polyinv (redPoly_ne_zero h) hu0 (isCoprime_redPoly h hi hu0 hu),
    polymod_redPoly_of_lt h (Nat.one_lt_two_pow (deg_pos_of_polyShapeOk h).ne')]

/-- A right inverse of `u` is its only canonical one. -/
theorem eq_of_fmul_eq_one (h : polyShapeOk c = true) {u v w : Nat} (hv : v < 2 ^ c.deg) (hw : w < 2 ^ c.deg)
    (huv : fmul c u v = 1) (huw : fmul c u w = 1) : v = w := by
  calc v = fmul c v (fmul c u w) := by rw [huw, fmul_one h hv]
    _ = fmul c (fmul c u v) w := by rw [← fmul_assoc h, fmul_comm c v]
    _ = w := by rw [huv, fmul_comm, fmul_one h hw]

/-- While CFGV = 1 the reduction polynomial is irreducible (R52, R252). -/
theorem State.Inv.irreducible (h : s.Inv) (v : s.status.cfgv = true) : Irreducible (toPoly (redPoly s.cfg)) := by
  obtain ⟨⟨h2, -⟩, hp, hr, -⟩ := State.cfgOk_iff.mp (h.valid.cfgv v)
  exact irreducible_of_rabin h2 (redPoly_log2 hp) hr

/-- Settles O22, from the laws of the remainder's ring and the inverse that the irreducible polynomial gives. -/
theorem fieldLaws : Obligations.FieldLaws := by
  intro s hs hv u v w hu hv' hw
  obtain ⟨hp, -⟩ := hs.field hv
  refine ⟨⟨Nat.xor_self u, Nat.xor_comm u v, Nat.xor_assoc u v w, Nat.xor_zero u⟩,
    ⟨fmul_comm _ u v, fmul_assoc hp u v w⟩, fmul_fadd hp u v w, ⟨fmul_one hp hu, fmul_zero hp u⟩,
    fun hu0 => fmul_finv hp (hs.irreducible hv) hu0 hu, fsqr_fadd hp u v⟩

end Sys2Proof.Machine

/-! The shift-and-xor reduction (41_field.md R148; assumption log 12). -/

namespace Sys2Proof.Machine

open Polynomial

variable {c : Cfg}

theorem shiftRight_shiftLeft_xor_mod (w m : Nat) : (w >>> m) <<< m ^^^ w % 2 ^ m = w := by
  apply Nat.eq_of_testBit_eq
  intro i
  rw [Nat.testBit_xor, Nat.testBit_shiftLeft, Nat.testBit_shiftRight, Nat.testBit_mod_two_pow]
  by_cases h : m ≤ i
  · simp [h, Nat.not_lt.mpr h]
  · simp [h, Nat.lt_of_not_le h]

/-- A pass adds a multiple of the reduction polynomial: x^m is congruent to the terms it is replaced by. -/
theorem reducePass_congr (c : Cfg) (w : Nat) : w = clmul (w >>> c.deg) (redPoly c) ^^^ reducePass c w := by
  have hw := congrArg toPoly (shiftRight_shiftLeft_xor_mod w c.deg)
  rw [toPoly_xor, toPoly_shiftLeft] at hw
  have h2 : (2 : (ZMod 2)[X]) = 0 := CharTwo.two_eq_zero
  apply toPoly_injective
  by_cases hc : c.ec = 0
  · simp only [redPoly, reducePass, hc, ne_eq, not_true, if_true, if_false, toPoly_xor, toPoly_clmul, toPoly_shiftLeft,
      toPoly_two_pow, toPoly_one]
    linear_combination -hw - toPoly (w >>> c.deg) * (1 + X ^ c.ea.toNat) * h2
  · simp only [redPoly, reducePass, hc, ne_eq, not_false_eq_true, if_true, if_false, toPoly_xor, toPoly_clmul,
      toPoly_shiftLeft, toPoly_two_pow, toPoly_one]
    linear_combination -hw - toPoly (w >>> c.deg) * (1 + X ^ c.ea.toNat + X ^ c.eb.toNat + X ^ c.ec.toNat) * h2

/-- The high part, shifted back by less than m, has lost its leading term. -/
theorem shiftRight_shiftLeft_lt {w m e : Nat} (he : e < m) : (w >>> m) <<< e < 2 ^ w.log2 := by
  rw [Nat.shiftLeft_eq, Nat.shiftRight_eq_div_pow]
  have h1 : w / 2 ^ m * 2 ^ (e + 1) ≤ w :=
    (Nat.mul_le_mul_left _ (Nat.pow_le_pow_right (by decide) he)).trans (Nat.div_mul_le_self w _)
  have h2 : w < 2 ^ w.log2 * 2 := pow_succ 2 w.log2 ▸ Nat.lt_log2_self
  rw [pow_succ, ← mul_assoc] at h1
  omega

/-- A pass shortens every value that is not canonical. -/
theorem reducePass_lt (h : polyShapeOk c = true) {w : Nat} (hw : 2 ^ c.deg ≤ w) : reducePass c w < 2 ^ w.log2 := by
  have hw0 : w ≠ 0 := (Nat.two_pow_pos _ |>.trans_le hw).ne'
  have hlo : w % 2 ^ c.deg < 2 ^ w.log2 :=
    (Nat.mod_lt _ (Nat.two_pow_pos _)).trans_le (Nat.pow_le_pow_right (by decide) ((Nat.le_log2 hw0).mpr hw))
  have hhi : ∀ {e}, e < c.deg → (w >>> c.deg) <<< e < 2 ^ w.log2 := shiftRight_shiftLeft_lt
  have h0 : w >>> c.deg < 2 ^ w.log2 := hhi (e := 0) (deg_pos_of_polyShapeOk h)
  unfold reducePass
  obtain ⟨hec, -, -, hea⟩ | ⟨hea, heb, hec, -⟩ := polyShapeOk_iff.mp h
  · rw [if_neg (not_not.mpr hec)]
    exact Nat.xor_lt_two_pow (Nat.xor_lt_two_pow hlo h0) (hhi hea)
  · have ht := Nat.xor_lt_two_pow (Nat.xor_lt_two_pow hlo h0) (hhi hea)
    split
    · exact Nat.xor_lt_two_pow (Nat.xor_lt_two_pow ht (hhi (heb.trans hea))) (hhi (hec.trans (heb.trans hea)))
    · exact ht

theorem isRemainder_of_lt {f d r : Nat} (hr : r < 2 ^ d) : IsRemainder r f d r :=
  ⟨hr, 0, by rw [clmul_comm, clmul_zero, Nat.zero_xor]⟩

theorem IsRemainder.of_congr {f d v w q r : Nat} (h : IsRemainder v f d r) (hw : w = clmul q f ^^^ v) :
    IsRemainder w f d r := by
  obtain ⟨hr, p, hp⟩ := h
  exact ⟨hr, q ^^^ p, by rw [hw, hp, xor_clmul, Nat.xor_assoc]⟩

/-- The passes end at a remainder modulo the reduction polynomial. -/
theorem isRemainder_reduceFuel (h : polyShapeOk c = true) {n w : Nat} (hn : w < 2 ^ n) :
    IsRemainder w (redPoly c) c.deg (reduceFuel c n w) := by
  induction n generalizing w with
  | zero => exact isRemainder_of_lt (hn.trans_le (Nat.pow_le_pow_right (by decide) (Nat.zero_le _)))
  | succ n ih =>
    rw [reduceFuel]
    split
    case isTrue hw =>
      have hw0 : w ≠ 0 := (Nat.two_pow_pos _ |>.trans_le hw).ne'
      have hlog : w.log2 ≤ n := Nat.lt_succ_iff.mp ((log2_lt_iff hw0).mpr hn)
      have hlt := (reducePass_lt h hw).trans_le (Nat.pow_le_pow_right (by decide) hlog)
      exact (ih hlt).of_congr (reducePass_congr c w)
    case isFalse hw => exact isRemainder_of_lt (Nat.lt_of_not_le hw)

/-- Settles O23: the passes end at a remainder, and the remainder is unique. -/
theorem shiftXorReductionIsRemainder : Obligations.ShiftXorReductionIsRemainder := by
  intro c w h
  obtain ⟨hlt, q, hq⟩ := isRemainder_reduceFuel h (Nat.lt_log2_self (n := w))
  exact (polymod_unique (redPoly_ne_zero h) (by rwa [redPoly_log2 h]) hq).symm

end Sys2Proof.Machine

/-! The bits of the carry-less product (00_scope.md R14). -/

namespace Sys2Proof.Machine

theorem natCast_length_filter (p : Nat → Bool) (n : Nat) :
    (((List.range n).filter p).length : ZMod 2) = ∑ i ∈ Finset.range n, if p i then 1 else 0 := by
  induction n with
  | zero => simp
  | succ n ih =>
    rw [List.range_succ, List.filter_append, List.length_append, Nat.cast_add, ih, Finset.sum_range_succ]
    cases h : p n <;> simp [h]

/-- Bit `k` of a product is the parity of the number of pairs of set bits whose indices add up to `k`. -/
theorem testBit_clmul (u v k : Nat) : (clmul u v).testBit k =
    decide (((List.range (k + 1)).filter fun i => u.testBit i && v.testBit (k - i)).length % 2 = 1) := by
  have h := coeff_toPoly (clmul u v) k
  rw [toPoly_clmul, Polynomial.coeff_mul, Finset.Nat.sum_antidiagonal_eq_sum_range_succ_mk] at h
  have hb : ∀ i, (toPoly u).coeff i * (toPoly v).coeff (k - i) =
      if (u.testBit i && v.testBit (k - i)) then 1 else 0 := fun i => by
    rw [coeff_toPoly, coeff_toPoly]
    cases u.testBit i <;> simp
  simp only [hb, ← natCast_length_filter] at h
  cases hk : (clmul u v).testBit k with
  | true =>
    rw [hk, if_pos rfl, ZMod.natCast_eq_one_iff_odd] at h
    exact (decide_eq_true (Nat.odd_iff.mp h)).symm
  | false =>
    rw [hk, if_neg Bool.false_ne_true, ZMod.natCast_eq_zero_iff_even] at h
    exact (decide_eq_false (by rw [Nat.even_iff.mp h]; decide)).symm

end Sys2Proof.Machine

/-! The commands of the field family (41_field.md 2). -/

namespace Sys2Proof.Machine

variable {s : State} {d a b : FReg}

/-- `BitVec.isLt` for every width: at the literal 1024 the unifier would evaluate the power. -/
theorem toNat_lt_two_pow {n : Nat} (x : BitVec n) : x.toNat < 2 ^ n := x.isLt

theorem State.fVal_lt (s : State) (a : FReg) : s.fVal a < 2 ^ 1024 := toNat_lt_two_pow _

theorem fVal_writeF_complete (s : State) (d : FReg) {v : Nat} (hv : v < 2 ^ 1024) (e : ErrCode) :
    ((s.writeF d v).complete e).fVal d = v := by
  have h : ((s.writeF d v).complete e).fReg d.toNat = BitVec.ofNat 1024 v :=
    (s.fReg_writeF d v d.toNat).trans (if_pos rfl)
  rw [State.fVal, h, toNat_ofNat_of_lt hv]

/-- A register has room for every canonical value (R10, R33). -/
theorem State.Inv.deg_le (h : s.Inv) (v : s.status.cfgv = true) : s.cfg.deg ≤ 1024 := by
  obtain ⟨⟨-, hm⟩, -⟩ := State.cfgOk_iff.mp (h.valid.cfgv v)
  obtain ⟨-, hmax, -⟩ := s.params.bounds
  exact hm.trans hmax

/-- Fd after a command's write of a canonical value. -/
theorem State.Inv.fVal_written (h : s.Inv) (v : s.status.cfgv = true) (d : FReg) {x : Nat} (hx : x < 2 ^ s.cfg.deg) :
    ((s.writeF d x).complete .none).fVal d = x :=
  fVal_writeF_complete s d (hx.trans_le (pow_le_pow_right₀ one_le_two (h.deg_le v))) _

/-- WIDE after FCLMUL holds the whole product (R146). -/
theorem State.Inv.wide_written (h : s.Inv) (v : s.status.cfgv = true) (ha : s.canonF a = true)
    (hb : s.canonF b = true) :
    (s.writeWide (clmul (s.fVal a) (s.fVal b))).wide.toNat = clmul (s.fVal a) (s.fVal b) := by
  have hm : 2 * s.cfg.deg ≤ 2048 := by have := h.deg_le v; omega
  have hlt := (clmul_lt (canon_iff.mp ha) (canon_iff.mp hb)).trans_le (pow_le_pow_right₀ one_le_two hm)
  rw [State.writeWide_wide, toNat_ofNat_of_lt hlt]

/-- Settles O15: the exclusive-or of two values below 2^m is below 2^m. -/
theorem faddRule : Obligations.FaddRule := by
  refine fun d a b s => ⟨rfl, gateErrors_of_exec rfl, raises_of_not_canon rfl, fun ⟨w, v⟩ ha hb =>
    ⟨_, (Succeeds.fadd w v ha hb).exec_eq, succeedsInF_writeF s d _, ?_⟩⟩
  have hd := fVal_writeF_complete s d (fadd_lt (s.fVal_lt a) (s.fVal_lt b)) .none
  exact ⟨hd, canon_iff.mpr (hd.trans_lt (fadd_lt (canon_iff.mp ha) (canon_iff.mp hb)))⟩

/-- Settles O16: the value written is the remainder, and a register has room for it. -/
theorem fmulRule : Obligations.FmulRule := by
  refine fun d a b s hs => ⟨rfl, gateErrors_of_exec rfl, raises_of_not_canon rfl, fun ⟨w, v⟩ ha hb =>
    ⟨_, (Succeeds.fmul w v ha hb).exec_eq, succeedsInF_writeF s d _, ?_⟩⟩
  obtain ⟨hp, -⟩ := hs.field v
  rw [hs.fVal_written v d (fmul_lt hp _ _)]
  exact isRemainder_polymod hp _

/-- Settles O17: FSQR and FMUL of the operand with itself have the same checks and the same effect. -/
theorem fsqrRule : Obligations.FsqrRule := by
  refine fun d a s hs => ⟨rfl, gateErrors_of_exec rfl, raises_of_not_canon rfl, fun ⟨w, v⟩ ha =>
    ⟨_, (Succeeds.fsqr w v ha).exec_eq, succeedsInF_writeF s d _, ?_, ?_⟩⟩
  · obtain ⟨hp, -⟩ := hs.field v
    rw [hs.fVal_written v d (fsqr_lt hp _)]
    exact isRemainder_polymod hp _
  · have wf : (Instr.fmul d a a).wf s.params = true := by simpa [Instr.wf] using w
    exact (Succeeds.fmul wf v ha ha).exec_eq

/-- Settles O18: extended Euclid gives a right inverse modulo the irreducible polynomial, and there is only one. -/
theorem finvRule : Obligations.FinvRule := by
  refine fun d a s hs => ⟨rfl, gateErrors_of_exec rfl, raises_of_not_canon rfl,
    fun ⟨w, v⟩ ha h0 => raises_of_exec_eq ?_, fun ⟨w, v⟩ ha h0 =>
    ⟨_, (Succeeds.finv w v ha h0).exec_eq, succeedsInF_writeF s d _, ?_⟩⟩
  · rw [exec_of_passesGate ⟨w, v⟩ rfl, needCanon_of ha, h0]
    rfl
  · obtain ⟨hp, -⟩ := hs.field v
    have hlt := finv_lt hp (s.fVal a)
    have hd := hs.fVal_written v d hlt
    have hinv := fmul_finv hp (hs.irreducible v) h0 (canon_iff.mp ha)
    rw [hd]
    exact ⟨canon_iff.mpr (hd.trans_lt hlt), hinv, fun u hu h1 => eq_of_fmul_eq_one hp hu hlt h1 hinv⟩

/-- Settles O19, by the bits of the product, which WIDE has room for. -/
theorem fclmulRule : Obligations.FclmulRule := by
  refine fun a b s hs => ⟨rfl, gateErrors_of_exec rfl, raises_of_not_canon rfl, fun ⟨w, v⟩ ha hb =>
    ⟨_, (Succeeds.fclmul w v ha hb).exec_eq, ⟨rfl, rfl, rfl⟩, ⟨rfl, rfl, rfl, rfl, rfl, rfl, rfl, rfl, rfl⟩,
      ⟨rfl, rfl⟩, ⟨rfl, rfl⟩, ⟨fun _ => rfl, fun _ => rfl, fun _ => rfl⟩, fun k => ?_⟩⟩
  rw [State.complete_wide, hs.wide_written v ha hb, testBit_clmul]

/-- Settles O20: long division gives the remainder of any value. -/
theorem fredRule : Obligations.FredRule := by
  refine fun d s hs => ⟨rfl, gateErrors_of_exec rfl, fun ⟨w, v⟩ =>
    ⟨_, (Succeeds.fred w v).exec_eq, succeedsInF_writeF s d _, ?_⟩⟩
  obtain ⟨hp, -⟩ := hs.field v
  rw [hs.fVal_written v d (polymod_redPoly_lt hp _)]
  exact isRemainder_polymod hp _

/-- Settles O21: WIDE holds the product that FMUL reduces. -/
theorem fclmulThenFredIsFmul : Obligations.FclmulThenFredIsFmul := by
  intro d a b s ⟨w, v⟩ hs ha hb
  obtain ⟨⟨hd, hfa⟩, hfb⟩ : (s.params.fOk d = true ∧ s.params.fOk a = true) ∧ s.params.fOk b = true := by
    simpa [Instr.wf] using w
  have wc : (Instr.fclmul a b).wf s.params = true := Bool.and_eq_true_iff.mpr ⟨hfa, hfb⟩
  refine ⟨_, _, _, (Succeeds.fclmul wc v ha hb).exec_eq,
    (Succeeds.fred (s := (s.writeWide _).complete .none) hd v).exec_eq, (Succeeds.fmul w v ha hb).exec_eq, rfl, rfl, ?_⟩
  simp only [State.complete_fregs, State.writeF_fregs, State.complete_wide, State.complete_cfg, State.writeWide_fregs,
    State.writeWide_cfg, hs.wide_written v ha hb, fmul]

end Sys2Proof.Machine

/-! The curve functions of the unit by their equations, without a division (42_curve.md R170, R175, R180). -/

namespace Sys2Proof.Machine

variable {c : Cfg}

theorem fadd_comm (u v : Nat) : fadd u v = fadd v u := Nat.xor_comm u v

theorem fadd_assoc (u v w : Nat) : fadd (fadd u v) w = fadd u (fadd v w) := Nat.xor_assoc u v w

theorem fadd_right_comm (u v w : Nat) : fadd (fadd u v) w = fadd (fadd u w) v := Nat.xor_right_comm u v w

theorem fadd_eq_zero_iff {u v : Nat} : fadd u v = 0 ↔ u = v := Nat.xor_eq_zero_iff

theorem fadd_cancel_left (u v : Nat) : fadd u (fadd u v) = v := by
  rw [← fadd_assoc, fadd_eq_zero_iff.mpr rfl, fadd, Nat.zero_xor]

/-- A quotient times its divisor is the dividend (R145). -/
theorem fmul_fdiv (h : polyShapeOk c = true) (hi : Irreducible (toPoly (redPoly c))) {u v : Nat} (hu : u < 2 ^ c.deg)
    (hv0 : v ≠ 0) (hv : v < 2 ^ c.deg) : fmul c v (fdiv c u v) = u := by
  rw [fdiv, ← fmul_assoc h, fmul_comm c v, fmul_assoc h, fmul_finv h hi hv0 hv, fmul_one h hu]

/-- The slope of the tangent, λ = x + y/x, is the λ with x·(λ + x) = y (R175). -/
theorem isDouble_ecdbl (h : polyShapeOk c = true) (hi : Irreducible (toPoly (redPoly c))) {p : Pt}
    (hp : ptCanon c p = true) : IsDouble c p (ecdbl c p) := by
  cases p with
  | O => rfl
  | aff x y =>
    obtain ⟨hx, hy⟩ := ptCanon_aff.mp hp
    unfold IsDouble ecdbl
    by_cases hx0 : x = 0
    · simp only [if_pos hx0]
    · simp only [if_neg hx0]
      refine ⟨_, _, _, fadd_lt hx (fdiv_lt h y x), ?_, rfl, rfl, rfl⟩
      rw [fadd_comm (fadd x _), fadd_cancel_left, fmul_fdiv h hi hy hx0 hx]

/-- The slope of the chord times the difference of the x coordinates is that of the y coordinates (R180). -/
theorem fmul_chordSlope (h : polyShapeOk c = true) (hi : Irreducible (toPoly (redPoly c))) {x1 y1 x2 y2 : Nat}
    (hp : ptCanon c (.aff x1 y1) = true) (hq : ptCanon c (.aff x2 y2) = true) (hne : x1 ≠ x2) :
    fmul c (fdiv c (fadd y1 y2) (fadd x1 x2)) (fadd x1 x2) = fadd y1 y2 := by
  obtain ⟨hx1, hy1⟩ := ptCanon_aff.mp hp
  obtain ⟨hx2, hy2⟩ := ptCanon_aff.mp hq
  rw [fmul_comm]
  exact fmul_fdiv h hi (fadd_lt hy1 hy2) (fadd_eq_zero_iff.not.mpr hne) (fadd_lt hx1 hx2)

/-- Addition gives the sum by the inverse-free formulas, case by case (R180). -/
theorem isSum_ecadd (h : polyShapeOk c = true) (hi : Irreducible (toPoly (redPoly c))) {p q : Pt}
    (hp : ptCanon c p = true) (hq : ptCanon c q = true) : IsSum c p q (ecadd c p q) := by
  match p, q with
  | .O, q => cases q <;> rfl
  | .aff _ _, .O => rfl
  | .aff x1 y1, .aff x2 y2 =>
    unfold IsSum ecadd
    by_cases heq : x1 = x2 ∧ y1 = y2
    · simp only [if_pos heq]
      exact isDouble_ecdbl h hi hp
    by_cases hx : x1 = x2
    · simp only [if_neg heq, if_pos hx]
    · simp only [if_neg heq, if_neg hx]
      exact ⟨_, _, _, fdiv_lt h _ _, fmul_chordSlope h hi hp hq hx, rfl, rfl, rfl⟩

/-- The chord does not depend on the order of its points: λ·(x1 + x3) and λ·(x2 + x3) differ by y1 + y2 (R180). -/
theorem ecchord_comm (h : polyShapeOk c = true) (hi : Irreducible (toPoly (redPoly c))) {x1 y1 x2 y2 : Nat}
    (hp : ptCanon c (.aff x1 y1) = true) (hq : ptCanon c (.aff x2 y2) = true) (hne : x1 ≠ x2) :
    ecchord c x1 y1 x2 y2 = ecchord c x2 y2 x1 y1 := by
  have hslope := fmul_chordSlope h hi hp hq hne
  simp only [ecchord, fadd_comm y2 y1, fadd_comm x2 x1]
  generalize fdiv c (fadd y1 y2) (fadd x1 x2) = lam at hslope ⊢
  simp only [fadd_right_comm _ x2 x1]
  generalize fadd (fadd (fadd (fadd (fsqr c lam) lam) x1) x2) c.aVal = x3
  have hx : fadd x1 x3 = fadd (fadd x1 x2) (fadd x2 x3) := by rw [fadd_assoc, fadd_cancel_left]
  have hy : fadd (fadd y1 y2) y1 = y2 := by rw [fadd_comm, fadd_cancel_left]
  have hdiff : fmul c lam (fadd x1 x3) = fadd (fadd y1 y2) (fmul c lam (fadd x2 x3)) := by
    rw [hx, fmul_fadd h, hslope]
  rw [hdiff, fadd_right_comm, fadd_right_comm (fadd y1 y2), hy, fadd_comm y2, fadd_right_comm]

/-- Addition is commutative on canonical points, on and off the curve. -/
theorem ecadd_comm (h : polyShapeOk c = true) (hi : Irreducible (toPoly (redPoly c))) {p q : Pt}
    (hp : ptCanon c p = true) (hq : ptCanon c q = true) : ecadd c p q = ecadd c q p := by
  match p, q with
  | .O, .O => rfl
  | .O, .aff _ _ => rfl
  | .aff _ _, .O => rfl
  | .aff x1 y1, .aff x2 y2 =>
    simp only [ecadd]
    by_cases hx : x1 = x2
    · subst hx
      by_cases hy : y1 = y2
      · subst hy; rfl
      · simp [hy, Ne.symm hy]
    · simp only [hx, Ne.symm hx, false_and, if_false]
      exact ecchord_comm h hi hp hq hx

end Sys2Proof.Machine

/-! The commands of the curve family (42_curve.md). -/

namespace Sys2Proof.Machine

variable {s : State}

/-- Pd after a command's write of a canonical point (R36). -/
theorem State.Inv.holdsPoint_written (h : s.Inv) (v : s.status.cfgv = true) {d : PReg} (hd : s.params.pOk d = true)
    {q : Pt} (hq : ptCanon s.cfg q = true) : HoldsPoint ((s.writeP d q).complete .none) d.toNat q := by
  refine holdsPoint_writeP hd fun x y hxy => ?_
  obtain ⟨hx, hy⟩ := ptCanon_aff.mp (hxy ▸ hq)
  exact ⟨hx.trans_le (pow_le_pow_right₀ one_le_two (h.deg_le v)),
    hy.trans_le (pow_le_pow_right₀ one_le_two (h.deg_le v))⟩

/-- The on-curve test is the curve equation at an affine pair (R170). -/
theorem oncurve_iff {c : Cfg} {p : Pt} : oncurve c p = true ↔ ∃ x y, p = .aff x y ∧
    fadd (fsqr c y) (fmul c x y) = fadd (fadd (fmul c (fsqr c x) x) (fmul c c.aVal (fsqr c x))) c.bVal := by
  cases p with
  | O => simp [oncurve]
  | aff x y => simp [oncurve, curveEq, fadd]

/-- Settles O24: FLAG takes the on-curve test, and nothing else is written. -/
theorem pchkRule : Obligations.PchkRule := by
  refine fun a s => ⟨rfl, gateErrors_of_exec rfl, raises_of_not_canon rfl, fun ⟨w, v⟩ ha =>
    ⟨_, (Succeeds.pchk w v ha).exec_eq, ⟨rfl, rfl, rfl⟩, ⟨rfl, rfl, rfl, rfl, rfl, rfl, rfl, rfl, rfl⟩,
      ⟨rfl, rfl⟩, ⟨fun _ => rfl, rfl, fun _ => rfl, fun _ => rfl⟩, rfl, oncurve_iff⟩⟩

/-- Settles O25, by the slope of the tangent. -/
theorem pdblRule : Obligations.PdblRule := by
  refine fun d a s hs => ⟨rfl, gateErrors_of_exec rfl, raises_of_not_canon rfl, fun ⟨w, v⟩ ha => ?_⟩
  obtain ⟨hp, haV, -⟩ := hs.field v
  have hd := pOk_pointDest w rfl
  exact ⟨_, _, (Succeeds.pdbl w v ha).exec_eq, succeedsInP_writeP hd _, isDouble_ecdbl hp (hs.irreducible v) ha,
    hs.holdsPoint_written v hd (ecdbl_canon hp haV ha)⟩

/-- Settles O26, by the slope of the chord. -/
theorem paddRule : Obligations.PaddRule := by
  refine fun d a b s hs => ⟨rfl, gateErrors_of_exec rfl, raises_of_not_canon rfl, fun ⟨w, v⟩ ha hb => ?_⟩
  obtain ⟨hp, haV, -⟩ := hs.field v
  have hd := pOk_pointDest w rfl
  exact ⟨_, _, (Succeeds.padd w v ha hb).exec_eq, succeedsInP_writeP hd _, isSum_ecadd hp (hs.irreducible v) ha hb,
    hs.holdsPoint_written v hd (ecadd_canon hp haV ha hb)⟩

/-- Settles O27: the cases are symmetric, and so is the chord. -/
theorem additionCommutes : Obligations.AdditionCommutes := by
  intro s p q hs v hp hq
  exact ecadd_comm (hs.field v).1 (hs.irreducible v) hp hq

end Sys2Proof.Machine

/-! The field the configuration names as a quotient ring of the polynomials over GF(2) (41_field.md R140, R145). -/

namespace Sys2Proof.Machine

open Polynomial

variable {c : Cfg}

/-- The polynomials over GF(2) modulo f: a field while f is irreducible (R140). -/
abbrev FieldOf (c : Cfg) : Type := AdjoinRoot (toPoly (redPoly c))

/-- The field element a value stands for (R14, R140). -/
noncomputable def toField (c : Cfg) (v : Nat) : FieldOf c := AdjoinRoot.mk _ (toPoly v)

@[simp] theorem toField_zero : toField c 0 = 0 := by simp [toField]

@[simp] theorem toField_one : toField c 1 = 1 := by simp [toField]

@[simp] theorem toField_two_pow (n : Nat) : toField c (2 ^ n) = AdjoinRoot.root _ ^ n := by simp [toField]

@[simp] theorem toField_xor (u v : Nat) : toField c (u ^^^ v) = toField c u + toField c v := by simp [toField]

@[simp] theorem toField_fadd (u v : Nat) : toField c (fadd u v) = toField c u + toField c v := toField_xor u v

/-- The field's product is that of the residue classes (R145). -/
theorem toField_fmul (h : polyShapeOk c = true) (u v : Nat) : toField c (fmul c u v) = toField c u * toField c v := by
  rw [toField, toField, toField, ← map_mul, ← toPoly_clmul, AdjoinRoot.mk_eq_mk]
  exact dvd_polymod_sub (redPoly_ne_zero h) _

theorem toField_fsqr (h : polyShapeOk c = true) (u : Nat) : toField c (fsqr c u) = toField c u ^ 2 := by
  rw [fsqr, toField_fmul h, sq]

/-- A canonical value that f divides is zero. -/
theorem toField_eq_zero_iff (h : polyShapeOk c = true) {u : Nat} (hu : u < 2 ^ c.deg) : toField c u = 0 ↔ u = 0 := by
  refine ⟨fun h0 => by_contra fun hu0 => ?_, fun h0 => h0 ▸ toField_zero⟩
  refine not_dvd_of_natDegree_lt (toPoly_eq_zero.not.mpr hu0) ?_ (AdjoinRoot.mk_eq_zero.mp h0)
  rw [toPoly_natDegree, toPoly_natDegree, redPoly_log2 h]
  exact (log2_lt_iff hu0).mpr hu

/-- The characteristic is 2. -/
theorem two_eq_zero (c : Cfg) : (2 : FieldOf c) = 0 := by
  simpa [CharTwo.two_eq_zero] using (map_ofNat (algebraMap (ZMod 2) (FieldOf c)) 2).symm

/-- Canonical values that stand for one field element are equal (R33). -/
theorem toField_inj (h : polyShapeOk c = true) {u v : Nat} (hu : u < 2 ^ c.deg) (hv : v < 2 ^ c.deg) :
    toField c u = toField c v ↔ u = v := by
  refine ⟨fun heq => Nat.xor_eq_zero_iff.mp ((toField_eq_zero_iff h (fadd_lt hu hv)).mp ?_), fun heq => heq ▸ rfl⟩
  rw [toField_fadd, heq]
  linear_combination toField c v * two_eq_zero c

theorem toField_fsqrTimes (h : polyShapeOk c = true) (u n : Nat) :
    toField c (fsqrTimes c u n) = toField c u ^ 2 ^ n := by
  rw [fsqrTimes, toField, toField, ← map_pow, AdjoinRoot.mk_eq_mk]
  exact dvd_sqrIter_sub_pow (redPoly_ne_zero h) u n

/-- The field has degree m over GF(2) (R140). -/
theorem finrank_fieldOf (h : polyShapeOk c = true) : Module.finrank (ZMod 2) (FieldOf c) = c.deg := by
  rw [PowerBasis.finrank (AdjoinRoot.powerBasis' (toPoly_monic (redPoly_ne_zero h))), AdjoinRoot.powerBasis'_dim,
    toPoly_natDegree, redPoly_log2 h]

theorem finite_fieldOf (h : polyShapeOk c = true) : Finite (FieldOf c) := by
  have := (toPoly_monic (redPoly_ne_zero h)).finite_adjoinRoot
  exact Module.finite_of_finite (ZMod 2)

/-- Fermat's theorem for GF(2^m). -/
theorem pow_card_fieldOf [Fact (Irreducible (toPoly (redPoly c)))] (h : polyShapeOk c = true)
    (a : FieldOf c) : a ^ 2 ^ c.deg = a := by
  have := finite_fieldOf h
  have := Fintype.ofFinite (FieldOf c)
  have hc := Module.natCard_eq_pow_finrank (K := ZMod 2) (V := FieldOf c)
  rw [finrank_fieldOf h, Nat.card_zmod, Nat.card_eq_fintype_card] at hc
  rw [← hc, FiniteField.pow_card]

end Sys2Proof.Machine

/-! The absolute trace (41_field.md R145). -/

namespace Sys2Proof.Machine

variable {c : Cfg}

/-- The sum of a, a², a⁴, … of `n` terms. -/
noncomputable def partialTrace (a : FieldOf c) (n : Nat) : FieldOf c := ∑ i ∈ Finset.range n, a ^ 2 ^ i

@[simp] theorem partialTrace_zero (a : FieldOf c) : partialTrace a 0 = 0 := Finset.sum_range_zero _

/-- A further term at the end. -/
theorem partialTrace_succ (a : FieldOf c) (n : Nat) : partialTrace a (n + 1) = partialTrace a n + a ^ 2 ^ n :=
  Finset.sum_range_succ _ n

/-- A further term at the front: squaring is additive. -/
theorem partialTrace_succ' (a : FieldOf c) (n : Nat) : partialTrace a (n + 1) = partialTrace a n ^ 2 + a := by
  induction n with
  | zero => simp [partialTrace]
  | succ n ih =>
    have hsq : partialTrace a (n + 1) ^ 2 = partialTrace a n ^ 2 + (a ^ 2 ^ n) ^ 2 := by
      rw [partialTrace_succ]
      linear_combination partialTrace a n * a ^ 2 ^ n * two_eq_zero c
    rw [hsq, partialTrace_succ a (n + 1), ih, pow_succ 2, pow_mul, add_right_comm]

/-- The partial traces of a² + a telescope. -/
theorem partialTrace_sq_add_self (a : FieldOf c) (n : Nat) : partialTrace (a ^ 2 + a) n = a ^ 2 ^ n + a := by
  induction n with
  | zero => linear_combination partialTrace_zero (a ^ 2 + a) - a * two_eq_zero c
  | succ n ih =>
    rw [partialTrace_succ', ih, pow_succ 2, pow_mul]
    linear_combination (a ^ 2 ^ n * a + a ^ 2) * two_eq_zero c

/-- The model's trace sum is a partial trace (R145). -/
theorem toField_traceSum (h : polyShapeOk c = true) (n u : Nat) :
    toField c (traceSum c n u) = partialTrace (toField c u) n := by
  unfold partialTrace
  induction n generalizing u with
  | zero => simp [traceSum]
  | succ n ih =>
    rw [traceSum, toField_xor, ih, toField_fsqr h, Finset.sum_range_succ', add_comm, pow_zero, pow_one]
    simp only [pow_succ', pow_mul]

theorem toField_ftr (h : polyShapeOk c = true) (u : Nat) : toField c (ftr c u) = partialTrace (toField c u) c.deg :=
  toField_traceSum h c.deg u

theorem traceSum_lt (h : polyShapeOk c = true) (n : Nat) {u : Nat} (hu : u < 2 ^ c.deg) :
    traceSum c n u < 2 ^ c.deg := by
  induction n generalizing u with
  | zero => exact Nat.two_pow_pos _
  | succ n ih => exact fadd_lt hu (ih (fsqr_lt h u))

theorem ftr_lt (h : polyShapeOk c = true) {u : Nat} (hu : u < 2 ^ c.deg) : ftr c u < 2 ^ c.deg := traceSum_lt h _ hu

/-- The model's trace is that of the field over GF(2) (R145). -/
theorem toField_ftr_eq_trace [Fact (Irreducible (toPoly (redPoly c)))] (h : polyShapeOk c = true) (u : Nat) :
    toField c (ftr c u) = algebraMap (ZMod 2) (FieldOf c) (Algebra.trace _ _ (toField c u)) := by
  have := finite_fieldOf h
  rw [FiniteField.algebraMap_trace_eq_sum_pow, finrank_fieldOf h, Nat.card_zmod, toField_ftr h, partialTrace]

/-- The trace is not zero, so it is not zero on the basis of the x^i. -/
theorem exists_trace_two_pow_ne_zero [Fact (Irreducible (toPoly (redPoly c)))] (h : polyShapeOk c = true) :
    ∃ i < c.deg, Algebra.trace (ZMod 2) (FieldOf c) (toField c (2 ^ i)) ≠ 0 := by
  have := (toPoly_monic (redPoly_ne_zero h)).finite_adjoinRoot
  by_contra! hz
  refine Algebra.trace_ne_zero (ZMod 2) (FieldOf c) ?_
  refine (AdjoinRoot.powerBasis' (toPoly_monic (redPoly_ne_zero h))).basis.ext fun i => ?_
  rw [PowerBasis.basis_eq_pow, AdjoinRoot.powerBasis'_gen, LinearMap.zero_apply, ← toField_two_pow]
  exact hz i (i.isLt.trans_eq (by rw [AdjoinRoot.powerBasis'_dim, toPoly_natDegree, redPoly_log2 h]))

theorem one_lt_two_pow_deg (h : polyShapeOk c = true) : 1 < 2 ^ c.deg :=
  Nat.one_lt_two_pow (deg_pos_of_polyShapeOk h).ne'

/-- The trace is 0 or 1 (R145). -/
theorem ftr_eq_zero_or_one (h : polyShapeOk c = true) (hi : Irreducible (toPoly (redPoly c))) {u : Nat}
    (hu : u < 2 ^ c.deg) : ftr c u = 0 ∨ ftr c u = 1 := by
  have := Fact.mk hi
  have htr := toField_ftr_eq_trace h u
  rw [← toField_inj h (ftr_lt h hu) (Nat.two_pow_pos _), ← toField_inj h (ftr_lt h hu) (one_lt_two_pow_deg h), htr,
    toField_zero, toField_one]
  generalize Algebra.trace (ZMod 2) (FieldOf c) (toField c u) = t
  have ht : t = 0 ∨ t = 1 := by revert t; decide
  obtain rfl | rfl := ht
  · exact .inl (map_zero _)
  · exact .inr (map_one _)

/-- Some x^i has trace 1, since the trace is not zero. -/
theorem exists_ftr_two_pow (h : polyShapeOk c = true) (hi : Irreducible (toPoly (redPoly c))) :
    ∃ i < c.deg, ftr c (2 ^ i) = 1 := by
  have := Fact.mk hi
  obtain ⟨i, hlt, hne⟩ := exists_trace_two_pow_ne_zero h
  refine ⟨i, hlt, (ftr_eq_zero_or_one h hi (Nat.pow_lt_pow_right (by decide) hlt)).resolve_left fun h0 => hne ?_⟩
  have htr := toField_ftr_eq_trace h (2 ^ i)
  rw [h0, toField_zero] at htr
  exact (map_eq_zero _).mp htr.symm

/-- The search for an element of trace 1 finds one. -/
theorem traceOne_spec (h : polyShapeOk c = true) (hi : Irreducible (toPoly (redPoly c))) : ftr c (traceOne c) = 1 := by
  unfold traceOne
  split
  · next hs => simpa using List.find?_some hs
  · next hn =>
    obtain ⟨i, hlt, htr⟩ := exists_ftr_two_pow h hi
    exact absurd (decide_eq_true htr) (List.find?_eq_none.mp hn i (List.mem_range.mpr hlt))

/-- What z² + z gives has trace 0. -/
theorem ftr_fsqr_fadd_self (h : polyShapeOk c = true) (hi : Irreducible (toPoly (redPoly c))) {z : Nat}
    (hz : z < 2 ^ c.deg) : ftr c (fadd (fsqr c z) z) = 0 := by
  have := Fact.mk hi
  rw [← toField_eq_zero_iff h (ftr_lt h (fadd_lt (fsqr_lt h z) hz)), toField_ftr h, toField_fadd,
    toField_fsqr h, partialTrace_sq_add_self, pow_card_fieldOf h]
  linear_combination toField c z * two_eq_zero c

end Sys2Proof.Machine

/-! The roots of z² + z = β (42_curve.md R185; assumption log 11). -/

namespace Sys2Proof.Machine

variable {c : Cfg}

/-- One pass of the loop for z² + z = β keeps its equation, in characteristic 2: the square of `hz` and b² times that of
`hw` add up to it. -/
theorem quadPass_identity {R : Type} [CommRing R] {d b z w e t : R} (h2 : (2 : R) = 0) (hw : w ^ 2 + d = w + e)
    (hz : z ^ 2 + z = b * (w + d) + e * (t + b)) :
    (z ^ 2 + w ^ 2 * b) ^ 2 + (z ^ 2 + w ^ 2 * b) = b * (w ^ 2 + d + d) + e ^ 2 * (t ^ 2 + b + b) := by
  grind

/-- What the loop for z² + z = β has built after `k` passes: `w` is a partial trace of `d`, and z² + z is β, up to a
multiple of `d` and one of a partial trace of β. -/
structure QuadInv (c : Cfg) (d beta z w k : Nat) : Prop where
  trace : toField c w = partialTrace (toField c d) (k + 1)
  root : toField c z ^ 2 + toField c z = toField c beta * (toField c w + toField c d) +
    toField c d ^ 2 ^ (k + 1) * (partialTrace (toField c beta) (k + 1) + toField c beta)

theorem QuadInv.init (c : Cfg) (d beta : Nat) : QuadInv c d beta 0 d 0 where
  trace := by simp [partialTrace]
  root := by
    rw [partialTrace_succ', partialTrace_zero, toField_zero]
    linear_combination -(toField c beta * toField c d + toField c d ^ 2 * toField c beta) * two_eq_zero c

theorem QuadInv.pass (h : polyShapeOk c = true) {d beta z w k : Nat} (hi : QuadInv c d beta z w k) :
    QuadInv c d beta (fsqr c z ^^^ fmul c (fsqr c w) beta) (fsqr c w ^^^ d) (k + 1) where
  trace := by rw [toField_xor, toField_fsqr h, hi.trace, ← partialTrace_succ']
  root := by
    have hw : toField c w ^ 2 + toField c d = toField c w + toField c d ^ 2 ^ (k + 1) := by
      rw [hi.trace, ← partialTrace_succ', partialTrace_succ]
    have hz := quadPass_identity (two_eq_zero c) hw hi.root
    rw [toField_xor, toField_xor, toField_fmul h, toField_fsqr h, toField_fsqr h, hz, partialTrace_succ' _ (k + 1),
      pow_succ 2 (k + 1), pow_mul]

/-- The loop keeps the invariant for all its passes. -/
theorem quadInv_quadLoop (h : polyShapeOk c = true) {d beta z w k : Nat} (hi : QuadInv c d beta z w k) (n : Nat) :
    ∃ w', QuadInv c d beta (quadLoop c d beta n z w) w' (k + n) := by
  induction n generalizing z w k with
  | zero => exact ⟨w, hi⟩
  | succ n ih => exact Nat.add_right_comm k 1 n ▸ ih (hi.pass h)

theorem quadLoop_lt (h : polyShapeOk c = true) (d beta n : Nat) {z w : Nat} (hz : z < 2 ^ c.deg) :
    quadLoop c d beta n z w < 2 ^ c.deg := by
  induction n generalizing z w with
  | zero => exact hz
  | succ n ih => exact ih (fadd_lt (fsqr_lt h z) (fmul_lt h _ _))

theorem quadRoot_lt (h : polyShapeOk c = true) (beta : Nat) : quadRoot c beta < 2 ^ c.deg :=
  quadLoop_lt h _ _ _ (Nat.two_pow_pos _)

/-- After m - 1 passes `w` is the trace of `d`, which is 1, and the trace of β is 0: the loop has built a root. -/
theorem quadRoot_isRoot (h : polyShapeOk c = true) (hi : Irreducible (toPoly (redPoly c))) {beta : Nat}
    (hb : beta < 2 ^ c.deg) (htr : ftr c beta = 0) : fadd (fsqr c (quadRoot c beta)) (quadRoot c beta) = beta := by
  have := Fact.mk hi
  obtain ⟨w, hinv⟩ := quadInv_quadLoop h (.init c (traceOne c) beta) (c.deg - 1)
  have hk : 0 + (c.deg - 1) + 1 = c.deg := by have := deg_pos_of_polyShapeOk h; omega
  have hw := hinv.trace
  have hz := hinv.root
  rw [hk, ← toField_ftr h, traceOne_spec h hi, toField_one] at hw
  rw [hk, ← toField_ftr h, htr, toField_zero, hw, pow_card_fieldOf h] at hz
  rw [← toField_inj h (fadd_lt (fsqr_lt h _) (quadRoot_lt h beta)) hb, toField_fadd, toField_fsqr h, quadRoot, hz]
  linear_combination toField c (traceOne c) * toField c beta * two_eq_zero c

/-- The two roots of z² + z = β differ by 1. -/
theorem fsqr_fadd_self_eq_iff (h : polyShapeOk c = true) (hi : Irreducible (toPoly (redPoly c))) {z r : Nat}
    (hz : z < 2 ^ c.deg) (hr : r < 2 ^ c.deg) :
    fadd (fsqr c z) z = fadd (fsqr c r) r ↔ z = r ∨ z = r ^^^ 1 := by
  have := Fact.mk hi
  rw [← toField_inj h (fadd_lt (fsqr_lt h z) hz) (fadd_lt (fsqr_lt h r) hr), ← toField_inj h hz hr,
    ← toField_inj h hz (v := r ^^^ 1) (fadd_lt hr (one_lt_two_pow_deg h)), toField_fadd, toField_fadd, toField_fsqr h,
    toField_fsqr h, toField_xor, toField_one]
  generalize toField c z = a, toField c r = b
  have hfactor : (a - b) * (a - (b + 1)) = a ^ 2 + a - (b ^ 2 + b) := by
    linear_combination (b ^ 2 + b - a * b - a) * two_eq_zero c
  rw [← sub_eq_zero, ← hfactor, mul_eq_zero, sub_eq_zero, sub_eq_zero]

/-- Of the two roots exactly one has the wanted bit 0 (R185). -/
theorem eq_quadRootSel_iff (beta : Nat) (sel : Bool) (z : Nat) :
    ((z = quadRoot c beta ∨ z = quadRoot c beta ^^^ 1) ∧ z.testBit 0 = sel) ↔ z = quadRootSel c beta sel := by
  unfold quadRootSel
  generalize quadRoot c beta = r
  have hflip : (r ^^^ 1).testBit 0 = !r.testBit 0 := by rw [Nat.testBit_xor]; exact Bool.xor_true _
  split
  · next hs =>
    constructor
    · rintro ⟨rfl | rfl, hz⟩
      · rfl
      · rw [hflip, hs] at hz
        exact absurd hz (Bool.not_ne_self sel)
    · rintro rfl
      exact ⟨.inl rfl, hs⟩
  · next hs =>
    constructor
    · rintro ⟨rfl | rfl, hz⟩
      · exact absurd hz hs
      · rfl
    · rintro rfl
      exact ⟨.inr rfl, by rw [hflip]; exact Bool.not_eq.mpr hs⟩

/-- The canonical roots of z² + z = β for β of trace 0: one for each value of bit 0, the one the solver takes (R185). -/
theorem isRoot_iff_eq_quadRootSel (h : polyShapeOk c = true) (hi : Irreducible (toPoly (redPoly c))) {beta : Nat}
    (hb : beta < 2 ^ c.deg) (htr : ftr c beta = 0) (sel : Bool) (z : Nat) :
    (z < 2 ^ c.deg ∧ fadd (fsqr c z) z = beta ∧ z.testBit 0 = sel) ↔ z = quadRootSel c beta sel := by
  have hr := quadRoot_lt h beta
  have hroot := quadRoot_isRoot h hi hb htr
  rw [← eq_quadRootSel_iff, ← and_assoc]
  refine and_congr_left' ⟨fun ⟨hz, he⟩ => (fsqr_fadd_self_eq_iff h hi hz hr).mp (he.trans hroot.symm), fun hz => ?_⟩
  have hlt : z < 2 ^ c.deg := by
    obtain rfl | rfl := hz
    · exact hr
    · exact fadd_lt hr (one_lt_two_pow_deg h)
  exact ⟨hlt, ((fsqr_fadd_self_eq_iff h hi hlt hr).mpr hz).trans hroot⟩

/-- Settles O29: the trace is additive and kept by squaring, so z² + z has trace 0; with trace 0 the loop gives a root,
and the other root differs from it in bit 0. -/
theorem quadraticRoots : Obligations.QuadraticRoots := by
  intro s beta hs v hb
  obtain ⟨hp, -⟩ := hs.field v
  have hi := hs.irreducible v
  refine ⟨ftr_eq_zero_or_one hp hi hb, fun h1 z hz he => ?_, isRoot_iff_eq_quadRootSel hp hi hb⟩
  exact absurd (h1.symm.trans (he ▸ ftr_fsqr_fadd_self hp hi hz)) one_ne_zero

end Sys2Proof.Machine

/-! The curve-equation solver by its equations (42_curve.md R185, R186). -/

namespace Sys2Proof.Machine

variable {c : Cfg} {x y beta : Nat} {sel : Bool}

/-- The square root is one: its square is the 2^m-th power (R145). -/
theorem fsqr_fsqrt (h : polyShapeOk c = true) (hi : Irreducible (toPoly (redPoly c))) {u : Nat} (hu : u < 2 ^ c.deg) :
    fsqr c (fsqrt c u) = u := by
  have := Fact.mk hi
  rw [← toField_inj h (fsqr_lt h _) hu, toField_fsqr h, fsqrt, toField_fsqrTimes h, ← pow_mul, ← pow_succ,
    Nat.sub_add_cancel (deg_pos_of_polyShapeOk h), pow_card_fieldOf h]

theorem fsqr_ne_zero (h : polyShapeOk c = true) (hi : Irreducible (toPoly (redPoly c))) (hx : x < 2 ^ c.deg)
    (hx0 : x ≠ 0) : fsqr c x ≠ 0 := by
  have := Fact.mk hi
  rw [Ne, ← toField_eq_zero_iff h (fsqr_lt h x), toField_fsqr h, pow_eq_zero_iff two_ne_zero, toField_eq_zero_iff h hx]
  exact hx0

/-- Multiplication by a nonzero value has one solution, the quotient (R145). -/
theorem fmul_eq_iff_eq_fdiv (h : polyShapeOk c = true) (hi : Irreducible (toPoly (redPoly c))) {u v w : Nat}
    (hu : u < 2 ^ c.deg) (hv0 : v ≠ 0) (hv : v < 2 ^ c.deg) (hw : w < 2 ^ c.deg) :
    fmul c v w = u ↔ w = fdiv c u v := by
  refine ⟨fun he => ?_, fun he => he ▸ fmul_fdiv h hi hu hv0 hv⟩
  calc w = fmul c (fmul c v (finv c v)) w := by rw [fmul_finv h hi hv0 hv, fmul_comm, fmul_one h hw]
    _ = fmul c (fmul c v w) (finv c v) := by rw [fmul_assoc h, fmul_comm c (finv c v), fmul_assoc h]
    _ = fdiv c u v := by rw [he, fdiv]

theorem solverBeta_lt (h : polyShapeOk c = true) (ha : c.aVal < 2 ^ c.deg) (hx : x < 2 ^ c.deg) :
    solverBeta c x < 2 ^ c.deg := fadd_lt (fadd_lt hx ha) (fdiv_lt h _ _)

/-- β is the value with x²·(β + x + A) = B (R185). -/
theorem eq_solverBeta_iff (h : polyShapeOk c = true) (hi : Irreducible (toPoly (redPoly c))) (ha : c.aVal < 2 ^ c.deg)
    (hb : c.bVal < 2 ^ c.deg) (hx : x < 2 ^ c.deg) (hx0 : x ≠ 0) (hbeta : beta < 2 ^ c.deg) :
    fmul c (fsqr c x) (fadd (fadd beta x) c.aVal) = c.bVal ↔ beta = solverBeta c x := by
  rw [fmul_eq_iff_eq_fdiv h hi hb (fsqr_ne_zero h hi hx hx0) (fsqr_lt h x) (fadd_lt (fadd_lt hbeta hx) ha), solverBeta,
    fadd_assoc beta, fadd_comm beta]
  constructor
  · intro he
    rw [← he, fadd_cancel_left]
  · rintro rfl
    rw [fadd_cancel_left]

/-- The solver must fail at x ≠ 0 exactly if its β has trace 1 (R185). -/
theorem solverFails_iff (h : polyShapeOk c = true) (hi : Irreducible (toPoly (redPoly c))) (ha : c.aVal < 2 ^ c.deg)
    (hb : c.bVal < 2 ^ c.deg) (hx : x < 2 ^ c.deg) (hx0 : x ≠ 0) :
    SolverFails c x sel ↔ ftr c (solverBeta c x) = 1 := by
  rw [SolverFails, if_neg hx0]
  constructor
  · rintro ⟨beta, hlt, he, htr⟩
    rwa [← (eq_solverBeta_iff h hi ha hb hx hx0 hlt).mp he]
  · intro htr
    have hlt := solverBeta_lt h ha hx
    exact ⟨_, hlt, (eq_solverBeta_iff h hi ha hb hx hx0 hlt).mpr rfl, htr⟩

/-- The solver fails where R185 has it fail. -/
theorem ecsolve_eq_none (h : polyShapeOk c = true) (hi : Irreducible (toPoly (redPoly c))) (ha : c.aVal < 2 ^ c.deg)
    (hb : c.bVal < 2 ^ c.deg) (hx : x < 2 ^ c.deg) (hf : SolverFails c x sel) : ecsolve c x sel = none := by
  by_cases hx0 : x = 0
  · have hsel : sel = true := by rwa [SolverFails, if_pos hx0] at hf
    rw [ecsolve, if_pos hx0, if_pos hsel]
  · rw [ecsolve, if_neg hx0, if_pos ((solverFails_iff h hi ha hb hx hx0).mp hf)]

/-- Elsewhere the solver gives the y of R185. -/
theorem exists_ecsolve_eq_some (h : polyShapeOk c = true) (hi : Irreducible (toPoly (redPoly c)))
    (ha : c.aVal < 2 ^ c.deg) (hb : c.bVal < 2 ^ c.deg) (hx : x < 2 ^ c.deg) (hf : ¬SolverFails c x sel) :
    ∃ y, ecsolve c x sel = some y ∧ SolvesWith c x sel y := by
  by_cases hx0 : x = 0
  · have hsel : sel = false := by rwa [SolverFails, if_pos hx0, Bool.not_eq_true] at hf
    refine ⟨fsqrt c c.bVal, by rw [ecsolve, if_pos hx0, if_neg (by simp [hsel])], fsqrTimes_lt h hb _, ?_⟩
    rw [if_pos hx0]
    exact ⟨hsel, fsqr_fsqrt h hi hb⟩
  · rw [solverFails_iff h hi ha hb hx hx0] at hf
    have hlt := solverBeta_lt h ha hx
    have htr := (ftr_eq_zero_or_one h hi hlt).resolve_right hf
    obtain ⟨hz, hroot, hbit⟩ := (isRoot_iff_eq_quadRootSel h hi hlt htr sel _).mpr rfl
    refine ⟨_, by rw [ecsolve, if_neg hx0, if_neg hf], fmul_lt h _ _, ?_⟩
    rw [if_neg hx0]
    exact ⟨_, _, hlt, (eq_solverBeta_iff h hi ha hb hx hx0 hlt).mpr rfl, hz, hroot, hbit, rfl⟩

/-- What solves R185 is on the curve: with y = x·z the equation is x² times that of z (R170). -/
theorem curveEq_of_solvesWith (h : polyShapeOk c = true) (hb : c.bVal < 2 ^ c.deg) (hs : SolvesWith c x sel y) :
    curveEq c x y = true := by
  obtain ⟨-, hs⟩ := hs
  have hl := fadd_lt (fsqr_lt h y) (fmul_lt h x y)
  have hr := fadd_lt (fadd_lt (fmul_lt h (fsqr c x) x) (fmul_lt h c.aVal (fsqr c x))) hb
  refine decide_eq_true ((toField_inj h hl hr).mp ?_)
  simp only [toField_fadd, toField_fmul h, toField_fsqr h]
  split at hs
  case isTrue hx0 =>
    obtain ⟨-, hy⟩ := hs
    rw [← hy, toField_fsqr h, hx0, toField_zero]
    ring
  case isFalse =>
    obtain ⟨beta, z, -, hbeta, -, hz, -, rfl⟩ := hs
    rw [← hbeta, ← hz]
    simp only [toField_fadd, toField_fmul h, toField_fsqr h]
    linear_combination -(toField c x ^ 3 + toField c c.aVal * toField c x ^ 2) * two_eq_zero c

/-- Settles O28: β is the solver's, and by its trace the quadratic has the wanted root or none. -/
theorem solveyRule : Obligations.SolveyRule := by
  refine fun d a sel s hs => ⟨rfl, gateErrors_of_exec rfl, raises_of_not_canon rfl, fun ⟨w, v⟩ ha hf => ?_,
    fun ⟨w, v⟩ ha hf => ?_⟩
  · obtain ⟨hp, haV, hbV, -⟩ := hs.field v
    have hnone := ecsolve_eq_none hp (hs.irreducible v) haV hbV (canon_iff.mp ha) hf
    refine raises_of_exec_eq ?_
    rw [exec_of_passesGate ⟨w, v⟩ rfl, needCanon_of ha, hnone]
  · obtain ⟨hp, haV, hbV, -⟩ := hs.field v
    obtain ⟨y, hy, hsolves⟩ := exists_ecsolve_eq_some hp (hs.irreducible v) haV hbV (canon_iff.mp ha) hf
    refine ⟨_, (Succeeds.solvey w v ha hy).exec_eq, succeedsInF_writeF s d _, ?_⟩
    rw [hs.fVal_written v d (ecsolve_lt hp hbV hy)]
    exact ⟨hsolves, curveEq_of_solvesWith hp hbV hsolves⟩

end Sys2Proof.Machine

/-! Compression and decompression of a point (43_codec.md R200, R205, R206). -/

namespace Sys2Proof.Machine

variable {c : Cfg} {x y : Nat} {sel : Bool}

/-- The curve equation, as a proposition about field values (R170). -/
theorem curveEq_iff : curveEq c x y = true ↔
    fadd (fsqr c y) (fmul c x y) = fadd (fadd (fmul c (fsqr c x) x) (fmul c c.aVal (fsqr c x))) c.bVal :=
  decide_eq_true_iff

/-- The square root of a square is its base: both are the 2^m-th power (R145). -/
theorem fsqrt_fsqr (h : polyShapeOk c = true) (hi : Irreducible (toPoly (redPoly c))) {u : Nat} (hu : u < 2 ^ c.deg) :
    fsqrt c (fsqr c u) = u := by
  have := Fact.mk hi
  rw [fsqrt, ← toField_inj h (fsqrTimes_lt h (fsqr_lt h u) _) hu, toField_fsqrTimes h, toField_fsqr h, ← pow_mul,
    ← pow_succ', Nat.sub_add_cancel (deg_pos_of_polyShapeOk h), pow_card_fieldOf h]

/-- At x = 0 the curve equation is y² = B (R170). -/
theorem fsqr_eq_of_curveEq_zero (h : polyShapeOk c = true) (he : curveEq c 0 y = true) : fsqr c y = c.bVal := by
  have hsqr : fsqr c 0 = 0 := fmul_zero h 0
  have hxy : fmul c 0 y = 0 := (fmul_comm c 0 y).trans (fmul_zero h y)
  simpa [hsqr, hxy, fmul_zero h, fadd] using curveEq_iff.mp he

/-- On the curve z = y/x is a root of z² + z = β: the curve equation is x² times that one (R206). -/
theorem fdiv_isRoot_of_curveEq (h : polyShapeOk c = true) (hi : Irreducible (toPoly (redPoly c)))
    (ha : c.aVal < 2 ^ c.deg) (hb : c.bVal < 2 ^ c.deg) (hx : x < 2 ^ c.deg) (hy : y < 2 ^ c.deg) (hx0 : x ≠ 0)
    (he : curveEq c x y = true) : fadd (fsqr c (fdiv c y x)) (fdiv c y x) = solverBeta c x := by
  have hlt := fadd_lt (fsqr_lt h (fdiv c y x)) (fdiv_lt h y x)
  have hmul := congrArg (toField c) (fmul_fdiv h hi hy hx0 hx)
  have hcurve := congrArg (toField c) (curveEq_iff.mp he)
  refine (eq_solverBeta_iff h hi ha hb hx hx0 hlt).mp ((toField_inj h (fmul_lt h _ _) hb).mp ?_)
  simp only [toField_fadd, toField_fmul h, toField_fsqr h] at hmul hcurve ⊢
  rw [← hmul] at hcurve
  linear_combination hcurve + (toField c x ^ 3 + toField c c.aVal * toField c x ^ 2) * two_eq_zero c

/-- The solver with a point's own selector bit gives the point's y back (R206). -/
theorem ecsolve_selBit (h : polyShapeOk c = true) (hi : Irreducible (toPoly (redPoly c))) (ha : c.aVal < 2 ^ c.deg)
    (hb : c.bVal < 2 ^ c.deg) (hx : x < 2 ^ c.deg) (hy : y < 2 ^ c.deg) (he : curveEq c x y = true) :
    ecsolve c x (selBit c x y) = some y := by
  by_cases hx0 : x = 0
  · subst hx0
    rw [← fsqrt_fsqr h hi hy, fsqr_eq_of_curveEq_zero h he]
    rfl
  · have hz := fdiv_lt h y x
    have hroot := fdiv_isRoot_of_curveEq h hi ha hb hx hy hx0 he
    have htr : ftr c (solverBeta c x) = 0 := hroot ▸ ftr_fsqr_fadd_self h hi hz
    have hsel := (isRoot_iff_eq_quadRootSel h hi (solverBeta_lt h ha hx) htr _ _).mp ⟨hz, hroot, rfl⟩
    rw [ecsolve, if_neg hx0, if_neg (by omega), selBit, if_neg hx0, ← hsel, fmul_fdiv h hi hy hx0 hx]

/-- The sentinel is the compressed form of no affine point, whose selector bit is 0 at x = 0 (R200). -/
theorem compress_aff_ne_sentinel : ¬(x = 0 ∧ selBit c x y = true) := by
  rintro ⟨hx0, hs⟩
  rw [selBit, if_pos hx0] at hs
  exact absurd hs nofun

/-- Decompression inverts compression on O and the points of the curve (R206). -/
theorem decompress_compress (h : polyShapeOk c = true) (hi : Irreducible (toPoly (redPoly c)))
    (ha : c.aVal < 2 ^ c.deg) (hb : c.bVal < 2 ^ c.deg) {p : Pt} (hp : ptCanon c p = true)
    (hc : p = .O ∨ oncurve c p = true) : decompress c (compress c p).1 (compress c p).2 = some p := by
  cases p with
  | O => rfl
  | aff x y =>
    obtain ⟨hx, hy⟩ := ptCanon_aff.mp hp
    have he : curveEq c x y = true := hc.resolve_left nofun
    rw [compress, decompress, if_neg compress_aff_ne_sentinel, ecsolve_selBit h hi ha hb hx hy he]
    rfl

/-- Where the solver must not fail, the pair is not the sentinel, and decompression is the solver (R205). -/
theorem decompress_of_not_solverFails (hf : ¬SolverFails c x sel) :
    decompress c x sel = (ecsolve c x sel).map fun y => .aff x y := by
  refine if_neg fun ⟨hx0, hs⟩ => hf ?_
  rwa [SolverFails, if_pos hx0]

end Sys2Proof.Machine

/-! The commands of the codec family (43_codec.md). -/

namespace Sys2Proof.Machine

variable {s t : State}

/-- The point value read from a register that holds a point as a command writes it (R35, R36). -/
theorem HoldsPoint.ptVal_eq {d : PReg} {q : Pt} (h : HoldsPoint t d.toNat q) : t.ptVal d = q := by
  cases q with
  | O =>
    obtain ⟨hinf, -⟩ := h
    rw [State.ptVal, PointReg.pt, if_pos hinf]
  | aff x y =>
    obtain ⟨hinf, hx, hy⟩ := h
    rw [State.ptVal, PointReg.pt, if_neg (ne_true_of_eq_false hinf), hx, hy]

/-- The state PCMP with destination Fd ends in, for the point `q` (R201). -/
def State.pcmpEnd (s : State) (d : FReg) (q : Pt) : State :=
  ((s.writeF d (compress s.cfg q).1).setSel (compress s.cfg q).2).complete .none

theorem exec_pcmp {d : FReg} {a : PReg} (w : (Instr.pcmp d a).wf s.params = true) (v : s.status.cfgv = true)
    (ha : s.canonP a = true) : exec (.pcmp d a) s = .next (s.pcmpEnd d (s.ptVal a)) :=
  (Succeeds.pcmp w v ha).exec_eq

/-- Fd after PCMP holds the compressed x coordinate (R201). -/
theorem State.Inv.fVal_pcmpEnd (h : s.Inv) (v : s.status.cfgv = true) (d : FReg) {q : Pt}
    (hq : ptCanon s.cfg q = true) : (s.pcmpEnd d q).fVal d = (compress s.cfg q).1 :=
  h.fVal_written v d (compress_fst_lt hq)

@[simp] theorem State.pcmpEnd_sel (s : State) (d : FReg) (q : Pt) :
    (s.pcmpEnd d q).status.sel = (compress s.cfg q).2 := rfl

/-- PCMP leaves the session registers but Fd alone (R201). -/
theorem State.keepsSessionButF_pcmpEnd (s : State) (d : FReg) (q : Pt) :
    KeepsSessionButF d.toNat s (s.pcmpEnd d q) :=
  have hw := (succeedsInF_writeF s d (compress s.cfg q).1).session
  ⟨hw.f, hw.wide, hw.p, hw.s⟩

/-- Settles O30: the quotient y/x is the z of the selector bit. -/
theorem pcmpRule : Obligations.PcmpRule := by
  refine fun d a s hs => ⟨rfl, gateErrors_of_exec rfl, raises_of_not_canon rfl, fun ⟨w, v⟩ ha => ?_⟩
  have hd := hs.fVal_pcmpEnd v d ha
  have hsel := s.pcmpEnd_sel d (s.ptVal a)
  refine ⟨_, exec_pcmp w v ha, ⟨rfl, rfl, rfl⟩, ⟨rfl, rfl, rfl, rfl, rfl, rfl, rfl, rfl, rfl⟩, ⟨rfl, rfl⟩, rfl,
    s.keepsSessionButF_pcmpEnd d _, fun hO => ?_, fun x y hxy => ?_⟩
  · rw [hd, hsel, hO]
    exact ⟨rfl, rfl⟩
  · obtain ⟨hp, -⟩ := hs.field v
    obtain ⟨hx, hy⟩ := ptCanon_aff.mp (hxy ▸ ha : ptCanon s.cfg (.aff x y) = true)
    rw [hd, hsel, hxy]
    exact ⟨rfl, fun hx0 => if_pos hx0, fun hx0 =>
      ⟨fdiv s.cfg y x, fdiv_lt hp y x, fmul_fdiv hp (hs.irreducible v) hy hx0 hx, if_neg hx0⟩⟩

/-- Settles O31: past the sentinel PDEC does what the solver does. -/
theorem pdecRule : Obligations.PdecRule := by
  refine fun d a sel s hs => ⟨rfl, gateErrors_of_exec rfl, raises_of_not_canon rfl, fun ⟨w, v⟩ ha hx0 hf => ?_,
    fun ⟨w, v⟩ hx0 hsel => ?_, fun ⟨w, v⟩ ha hf => ?_⟩
  · obtain ⟨hp, haV, hbV, -⟩ := hs.field v
    have hnone := ecsolve_eq_none hp (hs.irreducible v) haV hbV (canon_iff.mp ha) hf
    refine raises_of_exec_eq ?_
    rw [exec_of_passesGate ⟨w, v⟩ rfl, needCanon_of ha, decompress, if_neg fun ⟨h, _⟩ => hx0 h, hnone]
    rfl
  · have ha : s.canonF a = true := canon_iff.mpr (hx0 ▸ Nat.two_pow_pos _)
    have hd := pOk_pointDest w rfl
    exact ⟨_, (Succeeds.pdec w v ha (if_pos ⟨hx0, hsel⟩)).exec_eq, succeedsInP_writeP hd _,
      hs.holdsPoint_written v hd ptCanon_O⟩
  · obtain ⟨hp, haV, hbV, -⟩ := hs.field v
    obtain ⟨y, hy, hsolves⟩ := exists_ecsolve_eq_some hp (hs.irreducible v) haV hbV (canon_iff.mp ha) hf
    have hq : decompress s.cfg (s.fVal a) sel = some (.aff (s.fVal a) y) := by
      rw [decompress_of_not_solverFails hf, hy]
      rfl
    have hd := pOk_pointDest w rfl
    have hholds := hs.holdsPoint_written v hd (decompress_canon hp hbV (canon_iff.mp ha) hq)
    refine ⟨_, y, (Succeeds.pdec w v ha hq).exec_eq, succeedsInP_writeP hd _, hsolves, hholds, ?_⟩
    rw [hholds.ptVal_eq]
    exact curveEq_of_solvesWith hp hbV hsolves

/-- Settles O32: PDEC decompresses what PCMP has compressed into Fd and SEL. -/
theorem compressionRoundTrip : Obligations.CompressionRoundTrip := by
  intro d a e s hs v hd ha he hcanon hc
  obtain ⟨hp, haV, hbV, -⟩ := hs.field v
  have hpcmp := exec_pcmp (Bool.and_eq_true_iff.mpr ⟨hd, ha⟩) v hcanon
  have hf := hs.fVal_pcmpEnd v d hcanon
  have hfc : (s.pcmpEnd d (s.ptVal a)).canonF d = true := canon_iff.mpr (hf.trans_lt (compress_fst_lt hcanon))
  have hq := decompress_compress hp (hs.irreducible v) haV hbV hcanon hc
  rw [← hf, ← s.pcmpEnd_sel d] at hq
  have hwf : (Instr.pdec e d (s.pcmpEnd d (s.ptVal a)).status.sel).wf s.params = true :=
    Bool.and_eq_true_iff.mpr ⟨he, hd⟩
  exact ⟨_, _, hpcmp, rfl, (Succeeds.pdec (s := s.pcmpEnd d _) hwf v hfc hq).exec_eq, rfl,
    ((exec_inv hs hpcmp).holdsPoint_written v he hcanon).ptVal_eq⟩

end Sys2Proof.Machine

/-! The table BCHK validates, and the commands of the Brick family (44_brick.md R220, R225). -/

namespace Sys2Proof.Machine

variable {s : State}

theorem State.entryIs_iff {i : Nat} {r : Pt} :
    s.entryIs i r = true ↔ ((s.tEntry i).x.toNat, (s.tEntry i).y.toNat) = enc r :=
  decide_eq_true_iff

/-- BCHK's loop from j·G on compares the next `n` entries with the next `n` multiples of G (R220). -/
theorem State.entriesFrom_iff {n j : Nat} : s.entriesFrom n (j + 1) (multiple s.cfg s.cfg.gen j) = true ↔
    ∀ i, j < i → i ≤ j + n → s.entryIs i (multiple s.cfg s.cfg.gen i) = true := by
  induction n generalizing j with
  | zero => exact iff_of_true rfl fun i hi hle => by omega
  | succ n ih =>
    rw [State.entriesFrom, ← multiple, Bool.and_eq_true, ih]
    constructor
    · rintro ⟨hfirst, hrest⟩ i hi hle
      obtain rfl | hlt := Nat.eq_or_lt_of_le (Nat.succ_le_of_lt hi)
      · exact hfirst
      · exact hrest i hlt (by omega)
    · exact fun h => ⟨h _ (Nat.lt_succ_self j) (by omega), fun i hi hle => h i (by omega) (by omega)⟩

theorem toNat_eq_zero_iff {n : Nat} {x : BitVec n} : x.toNat = 0 ↔ x = 0 := by
  rw [← BitVec.toNat_inj, BitVec.ofNat_eq_ofNat, BitVec.toNat_zero]

/-- An entry stands for O exactly if it is all zero (R39). -/
theorem State.entryIs_zero_iff {i : Nat} : s.entryIs i .O = true ↔ (s.tEntry i).x = 0 ∧ (s.tEntry i).y = 0 := by
  rw [State.entryIs_iff, enc, Prod.mk.injEq, toNat_eq_zero_iff, toNat_eq_zero_iff]

/-- BCHK's conditions are those of the table by repeated addition (R220). -/
theorem State.brickOk_iff : s.brickOk = true ↔ TableMatches s := by
  have hloop : s.entriesFrom (2 ^ s.cfg.window - 1) 1 .O = true ↔ ∀ i, 1 ≤ i → i < 2 ^ s.cfg.window →
      ((s.tEntry i).x.toNat, (s.tEntry i).y.toNat) = enc (multiple s.cfg s.cfg.gen i) := by
    have hpos := Nat.two_pow_pos s.cfg.window
    refine (State.entriesFrom_iff (j := 0)).trans (forall_congr' fun i => imp_congr_right fun _ => ?_)
    rw [State.entryIs_iff]
    exact imp_congr_left (by omega)
  simp only [State.brickOk, Bool.and_eq_true, decide_eq_true_eq, canon_iff, State.entryIs_zero_iff, hloop,
    TableMatches, and_assoc]

/-- What BMUL writes is a canonical point (R33, R225). -/
theorem State.Inv.windowMul_canon (h : s.Inv) (v : s.status.cfgv = true) (vb : s.status.brkv = true) (k : Nat) :
    ptCanon s.cfg (windowMul s.cfg s.cfg.window s.cfg.combLen k s.tpt) = true := by
  obtain ⟨hp, ha, -⟩ := h.field v
  obtain ⟨-, hbrick⟩ := h.valid.brkv vb
  exact windowLoop_canon hp ha _ _ (fun _ => tpt_canon_of_brickOk hp ha hbrick) _ ptCanon_O

/-- Settles O33: BCHK's loop builds i·G by repeated addition, so its conditions are those of the rule. -/
theorem bchkRule : Obligations.BchkRule := by
  refine fun s => ⟨rfl, gateErrors_of_exec rfl, fun v ht => ?_, fun v ht => ?_⟩
  · exact ⟨_, (Succeeds.bchk v (State.brickOk_iff.mpr ht)).exec_eq, ⟨rfl, rfl, rfl⟩,
      ⟨rfl, rfl, rfl, rfl, rfl, rfl, rfl, rfl, rfl⟩, ⟨rfl, rfl⟩,
      ⟨fun _ => rfl, rfl, fun _ => rfl, fun _ => rfl⟩, v, rfl⟩
  · have hexec : exec .bchk s = (raise .invalidTable (s.setBrkv false)).finish :=
      (exec_of_passesGate ⟨rfl, v⟩ rfl).trans (congrArg _ (if_neg (State.brickOk_iff.not.mpr ht)))
    exact ⟨_, hexec, ⟨rfl, rfl, rfl⟩, ⟨rfl, rfl, rfl, rfl, rfl, rfl, rfl, rfl, rfl⟩, ⟨rfl, rfl⟩,
      ⟨fun _ => rfl, rfl, fun _ => rfl, fun _ => rfl⟩, v, rfl⟩

/-- Settles O34, by the checks after the gate in their order; the loop over a validated table gives a canonical
point. -/
theorem bmulRule : Obligations.BmulRule := by
  refine fun d a s hs => ⟨rfl, gateErrors_of_exec rfl, fun g vb => raises_of_exec_eq ?_,
    fun g vb hk => raises_of_exec_eq ?_, fun ⟨w, v⟩ vb hk => ?_⟩
  · rw [exec_of_passesGate g rfl, needBrkv, vb, check_false]
  · rw [exec_of_passesGate g rfl, needBrkv_of vb, decide_eq_false hk.not_gt, check_false]
  · have hd := pOk_pointDest w rfl
    exact ⟨_, (Succeeds.bmul w v vb hk).exec_eq, succeedsInP_writeP hd _,
      hs.holdsPoint_written v hd (hs.windowMul_canon v vb _)⟩

end Sys2Proof.Machine

/-! The curve of a valid configuration as one of Mathlib's Weierstrass curves (42_curve.md R170, R175, R180). -/

namespace Sys2Proof.Machine

open WeierstrassCurve.Affine

variable {c : Cfg}

/-- What CFGV = 1 says of the curve: an irreducible polynomial of the legal shape, canonical coefficients, and B ≠ 0
(R252). -/
structure LegalCurve (c : Cfg) : Prop where
  shape : polyShapeOk c = true
  irreducible : Irreducible (toPoly (redPoly c))
  aCanon : c.aVal < 2 ^ c.deg
  bCanon : c.bVal < 2 ^ c.deg
  bNonzero : c.bVal ≠ 0

theorem State.Inv.legalCurve {s : State} (h : s.Inv) (v : s.status.cfgv = true) : LegalCurve s.cfg := by
  obtain ⟨-, hp, -, ha, hb, hb0⟩ := State.cfgOk_iff.mp (h.valid.cfgv v)
  exact ⟨hp, h.irreducible v, ha, hb, hb0⟩

/-- The curve y² + xy = x³ + Ax² + B over the field of the configuration (R170). -/
noncomputable def curveOf (c : Cfg) : WeierstrassCurve.Affine (FieldOf c) where
  a₁ := 1
  a₂ := toField c c.aVal
  a₃ := 0
  a₄ := 0
  a₆ := toField c c.bVal

/-- Mathlib's equation of the curve is the model's on-curve test (R170). -/
theorem equation_curveOf_iff (hc : LegalCurve c) (x y : Nat) :
    (curveOf c).Equation (toField c x) (toField c y) ↔ curveEq c x y = true := by
  have hp := hc.shape
  rw [equation_iff, curveEq_iff, ← toField_inj hp (fadd_lt (fsqr_lt hp _) (fmul_lt hp _ _))
    (fadd_lt (fadd_lt (fmul_lt hp _ _) (fmul_lt hp _ _)) hc.bCanon)]
  simp [curveOf, toField_fmul hp, toField_fsqr hp, pow_succ]

/-- The discriminant of the curve is B, up to its sign. -/
theorem discriminant_curveOf (c : Cfg) : (curveOf c).Δ = -toField c c.bVal := by
  simp only [curveOf, WeierstrassCurve.Δ, WeierstrassCurve.b₂, WeierstrassCurve.b₄, WeierstrassCurve.b₆,
    WeierstrassCurve.b₈]
  generalize toField c c.aVal = a
  generalize toField c c.bVal = b
  linear_combination (-(6 * a + 24 * a ^ 2 + 32 * a ^ 3) * b - 216 * b ^ 2) * two_eq_zero c

/-- A legal curve has no singular point, since B ≠ 0. -/
theorem nonsingular_curveOf_iff (hc : LegalCurve c) {x y : Nat} :
    (curveOf c).Nonsingular (toField c x) (toField c y) ↔ curveEq c x y = true := by
  have := Fact.mk hc.irreducible
  have hΔ : (curveOf c).Δ ≠ 0 := by
    rw [discriminant_curveOf, Ne, neg_eq_zero, toField_eq_zero_iff hc.shape hc.bCanon]
    exact hc.bNonzero
  rw [← equation_curveOf_iff hc, equation_iff_nonsingular_of_Δ_ne_zero hΔ]

theorem negY_curveOf (x y : FieldOf c) : (curveOf c).negY x y = y + x := by
  simp only [negY, curveOf]
  linear_combination (-y - x) * two_eq_zero c

theorem addX_curveOf (x1 x2 l : FieldOf c) : (curveOf c).addX x1 x2 l = l ^ 2 + l + x1 + x2 + toField c c.aVal := by
  simp only [addX, curveOf]
  linear_combination (-toField c c.aVal - x1 - x2) * two_eq_zero c

theorem addY_curveOf (x1 x2 y1 l : FieldOf c) : (curveOf c).addY x1 x2 y1 l =
    l * (x1 + (curveOf c).addX x1 x2 l) + (curveOf c).addX x1 x2 l + y1 := by
  rw [addY, negY_curveOf, negAddY]
  linear_combination -l * x1 * two_eq_zero c

section
variable [Fact (Irreducible (toPoly (redPoly c)))]

theorem toField_fdiv (hc : LegalCurve c) {u v : Nat} (hu : u < 2 ^ c.deg) (hv0 : v ≠ 0) (hv : v < 2 ^ c.deg) :
    toField c (fdiv c u v) = toField c u / toField c v := by
  rw [eq_div_iff ((toField_eq_zero_iff hc.shape hv).not.mpr hv0), mul_comm, ← toField_fmul hc.shape,
    fmul_fdiv hc.shape hc.irreducible hu hv0 hv]

/-- The slope of the tangent is x + y/x (R175). -/
theorem slope_tangent_curveOf [DecidableEq (FieldOf c)] {x y : FieldOf c} (hx : x ≠ 0) :
    (curveOf c).slope x x y y = x + y / x := by
  have hneg : y ≠ (curveOf c).negY x y := by rwa [negY_curveOf, Ne, left_eq_add]
  rw [slope_of_Y_ne rfl hneg, div_eq_iff (sub_ne_zero.mpr hneg), negY_curveOf]
  simp only [curveOf]
  field_simp
  linear_combination (2 * x ^ 3 + toField c c.aVal * x ^ 2) * two_eq_zero c

/-- The slope of the chord is (y1 + y2)/(x1 + x2) (R180). -/
theorem slope_chord_curveOf [DecidableEq (FieldOf c)] {x1 x2 y1 y2 : FieldOf c} (hx : x1 ≠ x2) :
    (curveOf c).slope x1 x2 y1 y2 = (y1 + y2) / (x1 + x2) := by
  rw [slope_of_X_ne hx]
  congr 1
  · linear_combination -y2 * two_eq_zero c
  · linear_combination -x2 * two_eq_zero c

end
end Sys2Proof.Machine

/-! The point values of a legal curve as Mathlib's group of nonsingular points: the group law (42_curve.md R187). -/

namespace Sys2Proof.Machine

open WeierstrassCurve.Affine

variable {c : Cfg}

/-- The point value stands for the point of the group: O for its zero, a canonical affine pair for the pair of field
elements. -/
def Represents (c : Cfg) (P : (curveOf c).Point) : Pt → Prop
  | .O => P = 0
  | .aff x y => (x < 2 ^ c.deg ∧ y < 2 ^ c.deg) ∧ ∃ h, P = .some (toField c x) (toField c y) h

variable {P Q : (curveOf c).Point} {p q : Pt}

theorem represents_O : Represents c 0 .O := rfl

theorem represents_some {X Y : FieldOf c} {h : (curveOf c).Nonsingular X Y} {x y : Nat}
    (hcanon : ptCanon c (.aff x y) = true) (hX : toField c x = X) (hY : toField c y = Y) :
    Represents c (.some X Y h) (.aff x y) := by
  subst hX hY
  exact ⟨ptCanon_aff.mp hcanon, h, rfl⟩

theorem exists_represents (hc : LegalCurve c) (hp : ptCanon c p = true) (ho : oncurve c p = true) :
    ∃ P, Represents c P p := by
  cases p with
  | O => exact ⟨0, represents_O⟩
  | aff x y => exact ⟨_, represents_some (h := (nonsingular_curveOf_iff hc).mpr ho) hp rfl rfl⟩

theorem Represents.point_unique (hp : Represents c P p) (hq : Represents c Q p) : P = Q := by
  cases p with
  | O => exact hp.trans hq.symm
  | aff x y =>
    obtain ⟨-, _, rfl⟩ := hp
    obtain ⟨-, _, rfl⟩ := hq
    rfl

/-- A point of the group has one canonical value (R33). -/
theorem Represents.value_unique (hc : LegalCurve c) (hp : Represents c P p) (hq : Represents c P q) : p = q := by
  match p, q with
  | .O, .O => rfl
  | .O, .aff _ _ =>
    obtain ⟨-, _, rfl⟩ := hq
    exact absurd hp (Point.some_ne_zero _)
  | .aff _ _, .O =>
    obtain ⟨-, _, rfl⟩ := hp
    exact absurd hq (Point.some_ne_zero _)
  | .aff x y, .aff x' y' =>
    obtain ⟨⟨hx, hy⟩, _, rfl⟩ := hp
    obtain ⟨⟨hx', hy'⟩, _, heq⟩ := hq
    obtain ⟨hxx, hyy⟩ := (Point.some.injEq ..).mp heq
    rw [(toField_inj hc.shape hx hx').mp hxx, (toField_inj hc.shape hy hy').mp hyy]

/-- The pair (0, 0) is on no legal curve, since B ≠ 0. -/
theorem Represents.ne_origin (hc : LegalCurve c) (h : Represents c P p) : p ≠ .aff 0 0 := by
  rintro rfl
  obtain ⟨-, hn, -⟩ := h
  have hb := fsqr_eq_of_curveEq_zero hc.shape ((nonsingular_curveOf_iff hc).mp hn)
  exact hc.bNonzero (hb.symm.trans (fmul_zero hc.shape 0))

variable [Fact (Irreducible (toPoly (redPoly c)))] [DecidableEq (FieldOf c)]

/-- Doubling is the group's (R175). -/
theorem Represents.double (hc : LegalCurve c) (h : Represents c P p) : Represents c (P + P) (ecdbl c p) := by
  cases p with
  | O =>
    obtain rfl : P = 0 := h
    exact add_zero 0
  | aff x y =>
    have hcanon := ecdbl_canon hc.shape hc.aCanon (ptCanon_aff.mpr h.1)
    obtain ⟨⟨hx, hy⟩, hn, rfl⟩ := h
    have hneg : toField c y = (curveOf c).negY (toField c x) (toField c y) ↔ x = 0 := by
      rw [negY_curveOf, left_eq_add, toField_eq_zero_iff hc.shape hx]
    by_cases hx0 : x = 0
    · rw [ecdbl, if_pos hx0]
      exact Point.add_self_of_Y_eq (hneg.mpr hx0)
    · have hX0 := (toField_eq_zero_iff hc.shape hx).not.mpr hx0
      rw [ecdbl, if_neg hx0] at hcanon ⊢
      rw [Point.add_self_of_Y_ne (hneg.not.mpr hx0)]
      refine represents_some hcanon ?_ ?_ <;>
        simp only [addY_curveOf, addX_curveOf, slope_tangent_curveOf hX0, toField_fadd, toField_fsqr hc.shape,
          toField_fmul hc.shape, toField_fdiv hc hy hx0 hx]
      · linear_combination -toField c x * two_eq_zero c
      · have hmul := div_mul_cancel₀ (toField c y) hX0
        linear_combination -hmul - (toField c x * (toField c x + toField c y / toField c x + 1) + toField c y) *
          two_eq_zero c

/-- Addition is the group's, case by case (R180). -/
theorem Represents.add (hc : LegalCurve c) (hp : Represents c P p) (hq : Represents c Q q) :
    Represents c (P + Q) (ecadd c p q) := by
  match p, q with
  | .O, q =>
    obtain rfl : P = 0 := hp
    rw [zero_add]
    cases q <;> exact hq
  | .aff _ _, .O =>
    obtain rfl : Q = 0 := hq
    rw [add_zero]
    exact hp
  | .aff x1 y1, .aff x2 y2 =>
    by_cases heq : x1 = x2 ∧ y1 = y2
    · obtain ⟨rfl, rfl⟩ := heq
      obtain rfl := hp.point_unique hq
      rw [ecadd, if_pos ⟨rfl, rfl⟩]
      exact hp.double hc
    have hcanon := ecadd_canon hc.shape hc.aCanon (ptCanon_aff.mpr hp.1) (ptCanon_aff.mpr hq.1)
    obtain ⟨⟨hx1, hy1⟩, hn1, rfl⟩ := hp
    obtain ⟨⟨hx2, hy2⟩, hn2, rfl⟩ := hq
    rw [ecadd, if_neg heq] at hcanon ⊢
    by_cases hx : x1 = x2
    · subst hx
      have hY : toField c y1 ≠ toField c y2 := by
        rw [Ne, toField_inj hc.shape hy1 hy2]
        exact fun hy => heq ⟨rfl, hy⟩
      rw [if_pos rfl]
      exact Point.add_of_Y_eq rfl ((Y_eq_of_X_eq hn1.1 hn2.1 rfl).resolve_left hY)
    · have hX : toField c x1 ≠ toField c x2 := (toField_inj hc.shape hx1 hx2).not.mpr hx
      rw [if_neg hx, ecchord] at hcanon ⊢
      rw [Point.add_of_X_ne hX]
      have hslope : toField c (fdiv c (fadd y1 y2) (fadd x1 x2)) =
          (curveOf c).slope (toField c x1) (toField c x2) (toField c y1) (toField c y2) := by
        rw [toField_fdiv hc (fadd_lt hy1 hy2) (fadd_eq_zero_iff.not.mpr hx) (fadd_lt hx1 hx2),
          slope_chord_curveOf hX, toField_fadd, toField_fadd]
      refine represents_some hcanon ?_ ?_ <;>
        simp only [addY_curveOf, addX_curveOf, ← hslope, toField_fadd, toField_fsqr hc.shape, toField_fmul hc.shape]

/-- Repeated addition is the group's multiple (R241). -/
theorem Represents.nsmul (hc : LegalCurve c) (h : Represents c P p) (n : Nat) :
    Represents c (n • P) (multiple c p n) := by
  induction n with
  | zero => exact zero_nsmul P
  | succ n ih =>
    rw [succ_nsmul]
    exact ih.add hc h

end Sys2Proof.Machine

/-! The two scalar loops as Horner's scheme in the group (44_brick.md R225, R226; 45_scalar.md R240, R241). -/

namespace Sys2Proof.Machine

section
variable {c : Cfg} [Fact (Irreducible (toPoly (redPoly c)))] [DecidableEq (FieldOf c)]
variable {P Q R : (curveOf c).Point} {q r : Pt}

theorem Represents.doublings (hc : LegalCurve c) (h : Represents c R r) (n : Nat) :
    Represents c (2 ^ n • R) (ecdblTimes c n r) := by
  induction n generalizing R r with
  | zero => rwa [pow_zero, one_nsmul]
  | succ n ih =>
    rw [pow_succ, mul_nsmul', two_nsmul]
    exact ih (h.double hc)

/-- The double-and-add loop: after the low `n` bits of k, 2^n·r + (k mod 2^n)·q (R240). -/
theorem Represents.doubleAndAdd (hc : LegalCurve c) (k : Nat) (hq : Represents c Q q) (n : Nat)
    (hr : Represents c R r) : Represents c (2 ^ n • R + (k % 2 ^ n) • Q) (mulLoop c k q n r) := by
  induction n generalizing R r with
  | zero =>
    rw [pow_zero, one_nsmul, Nat.mod_one, zero_nsmul, add_zero]
    exact hr
  | succ n ih =>
    have hpass : Represents c (2 • R + (k.testBit n).toNat • Q)
        (if k.testBit n then ecadd c (ecdbl c r) q else ecdbl c r) := by
      rw [two_nsmul]
      cases k.testBit n with
      | true => simpa using (hr.double hc).add hc hq
      | false => simpa using hr.double hc
    have hsplit : 2 ^ (n + 1) • R + (k % 2 ^ (n + 1)) • Q =
        2 ^ n • (2 • R + (k.testBit n).toNat • Q) + (k % 2 ^ n) • Q := by
      rw [pow_succ, Nat.mod_mul, Nat.toNat_testBit]
      module
    rw [hsplit]
    exact ih hpass

/-- The windowed loop: after the low `n` windows of k, 2^(nw)·r + (k mod 2^(nw))·q, if entry i of the table is i·q
(R225). -/
theorem Represents.windows (hc : LegalCurve c) (w k : Nat) {t : Nat → Pt}
    (ht : ∀ i < 2 ^ w, Represents c (i • Q) (t i)) (n : Nat) (hr : Represents c R r) :
    Represents c (2 ^ (n * w) • R + (k % 2 ^ (n * w)) • Q) (windowLoop c w k t n r) := by
  induction n generalizing R r with
  | zero =>
    rw [Nat.zero_mul, pow_zero, one_nsmul, Nat.mod_one, zero_nsmul, add_zero]
    exact hr
  | succ n ih =>
    have hpass := (hr.doublings hc w).add hc (ht _ (Nat.mod_lt (k >>> (n * w)) (Nat.two_pow_pos w)))
    have hsplit : 2 ^ ((n + 1) * w) • R + (k % 2 ^ ((n + 1) * w)) • Q =
        2 ^ (n * w) • (2 ^ w • R + (k >>> (n * w) % 2 ^ w) • Q) + (k % 2 ^ (n * w)) • Q := by
      rw [Nat.succ_mul, pow_add, Nat.mod_mul, Nat.shiftRight_eq_div_pow]
      module
    rw [hsplit]
    exact ih hpass

end

variable {c : Cfg} {q : Pt}

/-- Repeated addition gives canonical points (R33). -/
theorem multiple_canon (h : polyShapeOk c = true) (ha : c.aVal < 2 ^ c.deg) (hq : ptCanon c q = true) (n : Nat) :
    ptCanon c (multiple c q n) = true := by
  induction n with
  | zero => rfl
  | succ n ih => exact ecadd_canon h ha ih hq

/-- Double-and-add gives the multiple by repeated addition (R241). -/
theorem scalarMul_eq_multiple (hc : LegalCurve c) (hq : ptCanon c q = true) (ho : oncurve c q = true) {k : Nat}
    (hk : k < 2 ^ c.deg) : scalarMul c k q = multiple c q k := by
  have := Fact.mk hc.irreducible
  classical
  obtain ⟨Q, hQ⟩ := exists_represents hc hq ho
  have hloop := hQ.doubleAndAdd hc k c.deg represents_O
  rw [nsmul_zero, zero_add, Nat.mod_eq_of_lt hk] at hloop
  exact hloop.value_unique hc (hQ.nsmul hc k)

/-- The windowed method gives the multiple by repeated addition, if the table holds the multiples (R226). -/
theorem windowMul_eq_multiple (hc : LegalCurve c) (hq : ptCanon c q = true) (ho : oncurve c q = true) {w l k : Nat}
    (hw : 1 ≤ w) {t : Nat → Pt} (ht : ∀ i < 2 ^ w, t i = multiple c q i) (hk : k < 2 ^ l) :
    windowMul c w l k t = multiple c q k := by
  have := Fact.mk hc.irreducible
  classical
  obtain ⟨Q, hQ⟩ := exists_represents hc hq ho
  have hwindows : l ≤ (l + w - 1) / w * w := by
    rw [Nat.mul_comm]
    exact le_smul_ceilDiv (α := Nat) (β := Nat) hw
  have hloop := Represents.windows hc w k (fun i hi => ht i hi ▸ hQ.nsmul hc i) ((l + w - 1) / w) represents_O
  rw [nsmul_zero, zero_add, Nat.mod_eq_of_lt (hk.trans_le (Nat.pow_le_pow_right two_pos hwindows))] at hloop
  exact hloop.value_unique hc (hQ.nsmul hc k)

/-- A multiple of a point of the curve is not (0, 0), the coordinates that stand for O in the table (R39, R220). -/
theorem multiple_ne_origin (hc : LegalCurve c) (hq : ptCanon c q = true) (ho : oncurve c q = true) (n : Nat) :
    multiple c q n ≠ .aff 0 0 := by
  have := Fact.mk hc.irreducible
  classical
  obtain ⟨Q, hQ⟩ := exists_represents hc hq ho
  exact (hQ.nsmul hc n).ne_origin hc

end Sys2Proof.Machine

/-! BMUL and SMUL on the generator (44_brick.md R226). -/

namespace Sys2Proof.Machine

variable {s : State}

/-- An entry with the coordinates of a point other than (0, 0) is read as that point (R39). -/
theorem TableEntry.tpt_eq_of_enc {e : TableEntry} {p : Pt} (hp : p ≠ .aff 0 0)
    (h : (e.x.toNat, e.y.toNat) = enc p) : e.tpt = p := by
  cases p with
  | O =>
    obtain ⟨hx, hy⟩ := Prod.mk.inj h
    exact if_pos ⟨toNat_eq_zero_iff.mp hx, toNat_eq_zero_iff.mp hy⟩
  | aff x y =>
    obtain ⟨rfl, rfl⟩ := Prod.mk.inj h
    refine if_neg fun ⟨hx, hy⟩ => hp ?_
    rw [toNat_eq_zero_iff.mpr hx, toNat_eq_zero_iff.mpr hy]

/-- In a table that passes BCHK entry i is read as i·G (R39, R220). -/
theorem State.tpt_eq_multiple (ht : TableMatches s) (hc : LegalCurve s.cfg) {i : Nat}
    (hi : i < 2 ^ s.cfg.window) : s.tpt i = multiple s.cfg s.cfg.gen i := by
  obtain ⟨-, -, hgx, hgy, hon, hx0, hy0, hentries⟩ := ht
  obtain rfl | hpos := Nat.eq_zero_or_pos i
  · exact if_pos ⟨hx0, hy0⟩
  · exact TableEntry.tpt_eq_of_enc (multiple_ne_origin hc (ptCanon_aff.mpr ⟨hgx, hgy⟩) hon i) (hentries i hpos hi)

/-- Settles O35: over a validated table both loops give k·G, so BMUL and SMUL write the same point. -/
theorem fixedBaseAgreesWithGeneral : Obligations.FixedBaseAgreesWithGeneral := by
  intro d b a s hs ⟨w, v⟩ ⟨ws, _⟩ vb hk hb
  have hc := hs.legalCurve v
  obtain ⟨-, hbrick⟩ := hs.valid.brkv vb
  have ht := State.brickOk_iff.mp hbrick
  obtain ⟨⟨hw, -⟩, ⟨-, hl⟩, hgx, hgy, hon, -⟩ := State.brickOk_iff.mp hbrick
  have hg : ptCanon s.cfg s.cfg.gen = true := ptCanon_aff.mpr ⟨hgx, hgy⟩
  have hkm : s.sVal a < 2 ^ s.cfg.deg := hk.trans_le (Nat.pow_le_pow_right two_pos hl)
  have hbmul := (Succeeds.bmul w v vb hk).exec_eq
  have hsmul := (Succeeds.smul (b := b) ws v (by rwa [State.canonP, hb]) hkm (by rwa [hb])).exec_eq
  rw [windowMul_eq_multiple hc hg hon hw (fun _ => State.tpt_eq_multiple ht hc) hk] at hbmul
  rw [hb, scalarMul_eq_multiple hc hg hon hkm] at hsmul
  have hholds := hs.holdsPoint_written v (pOk_pointDest w rfl) (multiple_canon hc.shape hc.aCanon hg (s.sVal a))
  exact ⟨_, _, hbmul, hsmul, rfl, rfl, hholds, hholds, rfl⟩

end Sys2Proof.Machine

/-! SMUL and the multiples of a point of the curve (45_scalar.md R240, R241). -/

namespace Sys2Proof.Machine

variable {c : Cfg} {q : Pt}

/-- A multiple of a multiple is the multiple by the product (R241). -/
theorem multiple_multiple (hc : LegalCurve c) (hq : ptCanon c q = true) (ho : oncurve c q = true) (j k : Nat) :
    multiple c (multiple c q k) j = multiple c q (j * k) := by
  have := Fact.mk hc.irreducible
  classical
  obtain ⟨Q, hQ⟩ := exists_represents hc hq ho
  have hprod := hQ.nsmul hc (j * k)
  rw [mul_nsmul'] at hprod
  exact ((hQ.nsmul hc k).nsmul hc j).value_unique hc hprod

/-- What SMUL writes is a canonical point (R33, R240). -/
theorem scalarMul_canon (h : polyShapeOk c = true) (ha : c.aVal < 2 ^ c.deg) (k : Nat) (hq : ptCanon c q = true) :
    ptCanon c (scalarMul c k q) = true :=
  mulLoop_canon h ha k hq _ ptCanon_O

/-- SMUL past all its checks: it writes the loop's point to Pd and nothing else (R240). -/
theorem State.Inv.smul_completes {s : State} {d : PReg} {a : SReg} {b : PReg} (hs : s.Inv)
    (g : PassesGate (.smul d a b) s) (hb : s.canonP b = true) (hk : s.sVal a < 2 ^ s.cfg.deg)
    (ho : oncurve s.cfg (s.ptVal b) = true) :
    ∃ t, exec (.smul d a b) s = .next t ∧ SucceedsInP d.toNat s t ∧
      HoldsPoint t d.toNat (scalarMul s.cfg (s.sVal a) (s.ptVal b)) := by
  obtain ⟨w, v⟩ := g
  have hc := hs.legalCurve v
  have hd := pOk_pointDest w rfl
  exact ⟨_, (Succeeds.smul w v hb hk ho).exec_eq, succeedsInP_writeP hd _,
    hs.holdsPoint_written v hd (scalarMul_canon hc.shape hc.aCanon _ hb)⟩

/-- Settles O36, by the checks after the gate in their order. -/
theorem smulRule : Obligations.SmulRule := by
  refine fun d a b s hs => ⟨rfl, gateErrors_of_exec rfl, raises_of_not_canon rfl,
    fun g hb hk => raises_of_exec_eq ?_, fun g hb hk ho => raises_of_exec_eq ?_, hs.smul_completes⟩
  · rw [exec_of_passesGate g rfl, needCanon_of hb, decide_eq_false hk.not_gt, check_false]
  · rw [exec_of_passesGate g rfl, needCanon_of hb, decide_eq_true hk, check_true, ho, check_false]

/-- Settles O37: the loop's point is k·q, and j·(k·q) and k·(j·q) are both the multiple by j·k. -/
theorem scalarMulIsMultiple : Obligations.ScalarMulIsMultiple := by
  intro d a b s hs ⟨w, v⟩ hb hk ho
  have hc := hs.legalCurve v
  constructor
  · rw [← scalarMul_eq_multiple hc hb ho hk]
    exact hs.smul_completes ⟨w, v⟩ hb hk ho
  · intro j k
    rw [multiple_multiple hc hb ho, multiple_multiple hc hb ho, Nat.mul_comm]

end Sys2Proof.Machine

/-! Rabin's test accepts every irreducible polynomial, and irreducible is what R252 says of factors (46_control.md R252;
assumption log 10). -/

namespace Sys2Proof.Machine

open Polynomial

variable {f : Nat}

/-- Every polynomial over GF(2) is the value of an unsigned integer (R14). -/
theorem toPoly_surjective : Function.Surjective toPoly := by
  intro p
  induction p using Polynomial.induction_on' with
  | add p q hp hq =>
    obtain ⟨u, rfl⟩ := hp
    obtain ⟨v, rfl⟩ := hq
    exact ⟨u ^^^ v, toPoly_xor u v⟩
  | monomial n a =>
    obtain rfl | rfl : a = 0 ∨ a = 1 := by decide +revert
    · exact ⟨0, by rw [toPoly_zero, monomial_zero_right]⟩
    · exact ⟨2 ^ n, by rw [toPoly_two_pow, X_pow_eq_monomial]⟩

theorem toPoly_natDegree_eq_deg (v : Nat) : (toPoly v).natDegree = deg v := toPoly_natDegree v

theorem deg_eq_zero_of_isUnit {v : Nat} (h : IsUnit (toPoly v)) : deg v = 0 := by
  rw [← toPoly_natDegree_eq_deg, natDegree_eq_zero_of_isUnit h]

/-- The degrees of two factors of a nonzero polynomial add up (R14). -/
theorem deg_add_deg_of_clmul_eq {g h : Nat} (hf : f ≠ 0) (hgh : clmul g h = f) : deg g + deg h = deg f := by
  have hprod : toPoly f = toPoly g * toPoly h := by rw [← hgh, toPoly_clmul]
  have h0 : toPoly g * toPoly h ≠ 0 := hprod ▸ toPoly_eq_zero.not.mpr hf
  rw [← toPoly_natDegree_eq_deg f, hprod, natDegree_mul (left_ne_zero_of_mul h0) (right_ne_zero_of_mul h0),
    toPoly_natDegree_eq_deg, toPoly_natDegree_eq_deg]

/-- Irreducibility as R252 defines it is irreducibility of the polynomial, from degree 1 on. -/
theorem irreducible_toPoly_iff_noProperFactor (hd : 0 < deg f) : Irreducible (toPoly f) ↔ NoProperFactor f := by
  have hf : f ≠ 0 := by rintro rfl; exact hd.ne' Nat.log2_zero
  constructor
  · rintro hi g h hgh ⟨hpos, hlt⟩
    have hsum := deg_add_deg_of_clmul_eq hf hgh
    have hunit := hi.isUnit_or_isUnit (by rw [← hgh, toPoly_clmul])
    have h0 : deg g = 0 ∨ deg h = 0 := hunit.imp deg_eq_zero_of_isUnit deg_eq_zero_of_isUnit
    omega
  · intro hno
    have hf1 : toPoly f ≠ 1 := fun h => hd.ne' (by rw [← toPoly_natDegree_eq_deg, h, natDegree_one])
    refine (toPoly_monic hf).irreducible_iff_natDegree.mpr ⟨hf1, fun p q _ _ hpq => ?_⟩
    obtain ⟨g, rfl⟩ := toPoly_surjective p
    obtain ⟨h, rfl⟩ := toPoly_surjective q
    have hgh : clmul g h = f := toPoly_injective ((toPoly_clmul g h).trans hpq)
    have hsum := deg_add_deg_of_clmul_eq hf hgh
    have hproper := hno g h hgh
    rw [toPoly_natDegree_eq_deg, toPoly_natDegree_eq_deg]
    omega

/-- Only 1 has no common factor with 0. -/
theorem eq_one_of_isCoprime_zero {v : Nat} (h : IsCoprime (toPoly v) (toPoly 0)) : v = 1 := by
  have hunit : IsUnit (toPoly v) := isCoprime_zero_right.mp (toPoly_zero ▸ h)
  have hv : v ≠ 0 := toPoly_eq_zero.not.mp hunit.ne_zero
  exact toPoly_injective (by rw [(toPoly_monic hv).isUnit_iff.mp hunit, toPoly_one])

/-- A division keeps the pair without a common factor. -/
theorem isCoprime_polymod {a b : Nat} (hb : b ≠ 0) (h : IsCoprime (toPoly a) (toPoly b)) :
    IsCoprime (toPoly b) (toPoly (polymod a b)) := by
  obtain ⟨-, q, hq⟩ := polymod_spec hb a
  rw [hq, toPoly_xor, toPoly_clmul] at h
  exact h.of_mul_add_right_left.symm

/-- Euclid with a division for each bit of the divisor gives 1 for values without a common factor. -/
theorem polygcdFuel_eq_one {n a b : Nat} (h : IsCoprime (toPoly a) (toPoly b)) (hb : b < 2 ^ n) :
    polygcdFuel n a b = 1 := by
  induction n generalizing a b with
  | zero =>
    obtain rfl := Nat.lt_one_iff.mp hb
    exact eq_one_of_isCoprime_zero h
  | succ n ih =>
    rw [polygcdFuel]
    split
    · next hb0 => exact eq_one_of_isCoprime_zero (hb0 ▸ h)
    · next hb0 =>
      refine ih (isCoprime_polymod hb0 h) ((polymod_lt hb0 a).trans_le (Nat.pow_le_pow_right two_pos ?_))
      exact Nat.le_of_lt_succ ((log2_lt_iff hb0).mpr hb)

theorem polygcd_eq_one {a b : Nat} (h : IsCoprime (toPoly a) (toPoly b)) : polygcd a b = 1 :=
  polygcdFuel_eq_one h (Nat.lt_log2_self.trans (Nat.pow_lt_pow_right one_lt_two (Nat.lt_succ_self _)))

/-- A value of lower degree that `f` divides is zero. -/
theorem eq_zero_of_toPoly_dvd {u : Nat} (hu : u < 2 ^ f.log2) (h : toPoly f ∣ toPoly u) : u = 0 := by
  by_contra hu0
  refine not_dvd_of_natDegree_lt (toPoly_eq_zero.not.mpr hu0) ?_ h
  rw [toPoly_natDegree, toPoly_natDegree]
  exact (log2_lt_iff hu0).mpr hu

theorem rabin_of_irreducible {m : Nat} (hm : 2 ≤ m) (hd : f.log2 = m) (hi : Irreducible (toPoly f)) :
    rabin f m = true := by
  subst hd
  have hf : f ≠ 0 := toPoly_eq_zero.not.mp hi.ne_zero
  have hdvd : ∀ n, f.log2 ∣ n ↔ toPoly f ∣ toPoly (sqrIter f 2 n ^^^ 2) := fun n => by
    rw [← natDegree_dvd_iff_dvd_sqrIter hi hf dvd_rfl, toPoly_natDegree]
  have h2 : 2 < 2 ^ f.log2 := lt_self_pow₀ one_lt_two hm
  simp only [rabin, Bool.and_eq_true, decide_eq_true_eq, List.all_eq_true]
  constructor
  · exact Nat.xor_eq_zero_iff.mp
      (eq_zero_of_toPoly_dvd (Nat.xor_lt_two_pow (sqrIter_lt hf h2 _) h2) ((hdvd _).mp dvd_rfl))
  · intro p hp
    obtain ⟨hprime, hpm⟩ := (mem_primeDivisors (by omega)).mp hp
    have hlt : f.log2 / p < f.log2 := Nat.div_lt_self (by omega) hprime.one_lt
    have hpos : 0 < f.log2 / p := Nat.div_pos (Nat.le_of_dvd (by omega) hpm) hprime.pos
    exact polygcd_eq_one (hi.coprime_iff_not_dvd.mpr fun h => Nat.not_dvd_of_pos_of_lt hpos hlt ((hdvd _).mpr h))

/-- Settles O40: the test decides irreducibility of the polynomial, which is what R252 says of its factors. -/
theorem rabinDecidesIrreducible : Obligations.RabinDecidesIrreducible := by
  intro f m hm hd
  rw [← irreducible_toPoly_iff_noProperFactor (by omega)]
  exact ⟨irreducible_of_rabin hm hd, rabin_of_irreducible hm hd⟩

end Sys2Proof.Machine

/-! The commands of the control family (46_control.md). -/

namespace Sys2Proof.Machine

variable {s : State}

/-- Settles O38: NOP's meaning is the bare completion. -/
theorem nopRule : Obligations.NopRule :=
  ⟨rfl, fun _ => ⟨_, Succeeds.nop.exec_eq, ⟨rfl, rfl, rfl⟩, ⟨rfl, rfl, rfl, rfl, rfl, rfl, rfl, rfl, rfl⟩, ⟨rfl, rfl⟩,
    ⟨rfl, rfl⟩, ⟨fun _ => rfl, rfl, fun _ => rfl, fun _ => rfl⟩, Bool.true_and _⟩⟩

/-- CFGCHK's conditions are those of the rule, Rabin's test included (R252). -/
theorem State.cfgOk_iff_configurationLegal : s.cfgOk = true ↔ ConfigurationLegal s := by
  have hshape : polyShapeOk s.cfg = true ↔
      (s.cfg.ec.toNat = 0 ∧ s.cfg.eb.toNat = 0 ∧ 1 ≤ s.cfg.ea.toNat ∧ s.cfg.ea.toNat < s.cfg.deg) ∨
      (s.cfg.deg > s.cfg.ea.toNat ∧ s.cfg.ea.toNat > s.cfg.eb.toNat ∧ s.cfg.eb.toNat > s.cfg.ec.toNat ∧
        1 ≤ s.cfg.ec.toNat) := by
    rw [polyShapeOk_iff, toNat_eq_zero_iff, toNat_eq_zero_iff]
  rw [State.cfgOk_iff, and_assoc, ConfigurationLegal, ← hshape]
  refine and_congr_right fun h2 => and_congr_right fun _ => and_congr_right fun hp => and_congr_left' ?_
  exact rabinDecidesIrreducible _ _ h2 (redPoly_log2 hp)

/-- Settles O39: CFGCHK's one branch is on the conditions of the rule. -/
theorem cfgchkRule : Obligations.CfgchkRule := by
  refine ⟨rfl, fun s => ⟨fun hl => ?_, fun hl => ?_⟩⟩
  · exact ⟨_, (Succeeds.cfgchk (State.cfgOk_iff_configurationLegal.mpr hl)).exec_eq, ⟨rfl, rfl, rfl⟩,
      ⟨rfl, rfl, rfl, rfl, rfl, rfl, rfl, rfl, rfl⟩, ⟨rfl, rfl⟩,
      ⟨fun _ => rfl, rfl, fun _ => rfl, fun _ => rfl⟩, rfl, rfl⟩
  · have hexec : exec .cfgchk s = (raise .invalidCurveParameters s.invalidate).finish :=
      congrArg Reply.finish (if_neg (State.cfgOk_iff_configurationLegal.not.mpr hl))
    exact ⟨_, hexec, ⟨rfl, rfl, rfl⟩, ⟨rfl, rfl, rfl, rfl, rfl, rfl, rfl, rfl, rfl⟩, ⟨rfl, rfl⟩,
      ⟨fun _ => rfl, rfl, fun _ => rfl, fun _ => rfl⟩, rfl, rfl⟩

@[simp] theorem State.zeroize_fReg (s : State) (i : Nat) : s.zeroize.fReg i = 0 := getD_getElem?_replicate 16 _ i

@[simp] theorem State.zeroize_pReg (s : State) (j : Nat) : s.zeroize.pReg j = PointReg.infinity :=
  getD_getElem?_replicate 8 _ j

@[simp] theorem State.zeroize_sReg (s : State) (k : Nat) : s.zeroize.sReg k = 0 := getD_getElem?_replicate 16 _ k

/-- Settles O41: ZEROIZE fills the three files with their reset values and clears WIDE, FLAG and SEL. -/
theorem zeroizeRule : Obligations.ZeroizeRule := by
  refine ⟨rfl, fun s => ⟨_, Succeeds.zeroize.exec_eq, ⟨rfl, rfl, rfl⟩,
    ⟨rfl, rfl, rfl, rfl, rfl, rfl, rfl, rfl, rfl⟩, ⟨rfl, rfl⟩, s.zeroize_fReg, rfl, s.zeroize_sReg, fun j => ?_,
    rfl, rfl⟩⟩
  have hj : (s.zeroize.complete .none).pReg j = PointReg.infinity := s.zeroize_pReg j
  exact ⟨congrArg PointReg.inf hj, congrArg PointReg.x hj, congrArg PointReg.y hj⟩

end Sys2Proof.Machine

/-! How a command and the engine's turn complete (60_exceptions.md R270, R272, R273), and the two forms of the turn. -/

namespace Sys2Proof.Machine

variable {s t : State} {i : Instr} {rest : List Event}

theorem Ends.endsWith (h : Ends s i t) : EndsWith t.status.err t := by
  cases h <;> exact ⟨rfl, rfl, rfl⟩

/-- Settles O7: every meaning is a completion. -/
theorem everyCommandCompletes : Obligations.EveryCommandCompletes := fun i s =>
  have ⟨_, h⟩ := exec_eq_finish i s
  ⟨_, h, rfl, rfl⟩

/-- A CFGCHK that ends with a code has found the configuration bad: it is well-formed in every build (R252). -/
theorem exec_cfgchk_error (h : exec .cfgchk s = .next t) (he : t.status.err ≠ .none) :
    t = s.invalidate.complete .invalidCurveParameters := by
  change (if s.cfgOk then succeed (s.setCfgv true) else raise .invalidCurveParameters s.invalidate).finish = _ at h
  obtain rfl := Reply.finish_eq_next h
  split at he
  · exact absurd rfl he
  · next hc => rw [if_neg hc, raise_state, raise_code]

/-- A BCHK that ends with InvalidTable has compared the table: the gate ends with other codes (R220). -/
theorem exec_bchk_invalidTable (h : exec .bchk s = .next t) (he : t.status.err = .invalidTable) :
    t = (s.setBrkv false).complete .invalidTable := by
  cases v : s.status.cfgv with
  | false =>
    obtain ⟨t', h', hfail⟩ := (gateErrors_of_exec (s := s) (i := .bchk) rfl).2 rfl v
    obtain rfl : t = t' := Host.Outcome.next.inj (h.symm.trans h')
    exact absurd (hfail.ends.err.symm.trans he) (by decide)
  | true =>
    obtain rfl := Reply.finish_eq_next ((exec_of_passesGate (i := .bchk) ⟨rfl, v⟩ rfl).symm.trans h)
    split at he
    · exact absurd he nofun
    · next hc => rw [if_neg hc, raise_state, raise_code]

/-- Settles O8: of the ways a command can end, only the two failed validations clear validity bits. -/
theorem errorWritesNoDestination : Obligations.ErrorWritesNoDestination := by
  intro i s t h he
  have hends := exec_ends h
  obtain ⟨hflags, hsession⟩ :=
    (exec_succeeds_or_keeps h).resolve_left fun ⟨_, _, ht⟩ => he (congrArg (·.status.err) ht)
  refine ⟨hends.endsWith, exec_keepsShared h, hflags, hsession, ?_, ?_, fun hc hb => ?_⟩
  · rintro ⟨rfl, -⟩
    obtain rfl := exec_cfgchk_error h he
    exact ⟨rfl, rfl⟩
  · rintro ⟨rfl, hcode⟩
    obtain rfl := exec_bchk_invalidTable h hcode
    exact ⟨rfl, rfl⟩
  · cases hends with
    | ok => exact absurd rfl he
    | fail => exact ⟨rfl, rfl⟩
    | badCfg hi => exact absurd ⟨hi, rfl⟩ hc
    | badTable hi => exact absurd ⟨hi, rfl⟩ hb

theorem engineTurn_of_idle (hb : s.status.busy = false) : engineTurn s = .next s := by
  simp [engineTurn, hb]

theorem engineTurn_of_ok (hb : s.status.busy = true) (hf : fetch s = .ok i) : engineTurn s = exec i s := by
  simp [engineTurn, hb, hf]

theorem step_of_nil (h : s.inbox = []) : step s = engineTurn s := by rw [step, h]

theorem step_of_engine (h : s.inbox = .engine :: rest) : step s = engineTurn { s with inbox := rest } := by
  rw [step, h]

/-- Settles O5, by the two forms of the turn. -/
theorem stepRunsDecodedCommand : Obligations.StepRunsDecodedCommand := by
  refine fun s rest => ⟨fun i hb hf => ⟨fun hi => ?_, fun hi => ?_⟩, fun hb => ⟨fun hi => ?_, fun hi => ?_⟩⟩
  · exact (step_of_nil hi).trans (engineTurn_of_ok hb hf)
  · exact (step_of_engine hi).trans (engineTurn_of_ok (s := { s with inbox := rest }) hb hf)
  · exact (step_of_nil hi).trans (engineTurn_of_idle hb)
  · exact (step_of_engine hi).trans (engineTurn_of_idle (s := { s with inbox := rest }) hb)

/-- The engine's turn completes whatever word is in flight (R270, R272). -/
theorem engineTurn_completes (hb : s.status.busy = true) :
    ∃ t, engineTurn s = .next t ∧ t.status.busy = false ∧ t.status.done = true ∧ KeepsShared s t := by
  cases hf : fetch s with
  | ok i =>
    obtain ⟨t, h, hbusy, hdone⟩ := everyCommandCompletes i s
    exact ⟨t, (engineTurn_of_ok hb hf).trans h, hbusy, hdone, exec_keepsShared h⟩
  | error e => exact ⟨_, engineTurn_of_error hb hf, rfl, rfl, (KeepsShared.refl s).complete _⟩

/-- After a completion the interrupt output is IE (R276). -/
theorem State.irq_of_done (hd : s.status.done = true) : s.irq = s.ie := by
  rw [State.irq, hd, Bool.true_and]

/-- Settles O55: in both forms of the turn the command completes and keeps IE, CMD and the inputs still to come. -/
theorem everyTurnCompletes : Obligations.EveryTurnCompletes := by
  intro s rest hb hi
  have hturn : step s = engineTurn s.consume := by
    obtain hi | hi := hi
    · rw [step_of_nil hi, State.consume_of_nil hi]
    · rw [step_of_engine hi, State.consume_of_cons hi]
  obtain ⟨t, h, hbusy, hdone, hk⟩ := engineTurn_completes (s := s.consume) hb
  exact ⟨t, hturn.trans h, hbusy, hdone, (State.irq_of_done hdone).trans hk.ie, hk.cmd, hk.inbox⟩

/-- Settles O52: a completion sets DONE and keeps IE; the host's writes and reset act on DONE or IE. -/
theorem interruptOutput : Obligations.InterruptOutput := by
  refine ⟨fun _ => rfl, fun i s t h hie => ?_, fun s rest hb hie hi => ?_, fun s v rest =>
    ⟨fun h hv => ?_, fun h hb => ?_, fun h hv => ?_, fun h hv hd => ?_, fun h => ?_⟩⟩
  · rw [State.irq_of_done (exec_ends h).endsWith.done, (exec_keepsShared h).ie, hie]
  · obtain ⟨t, h, -, -, hirq, -⟩ := everyTurnCompletes s rest hb (.inr hi)
    exact ⟨t, h, hirq.trans hie⟩
  · exact ⟨_, step_write_status h, by simp [State.irq, Status.w1c, hv]⟩
  · exact ⟨_, step_write (.inl hb) rfl h, Bool.false_and _⟩
  · exact ⟨_, step_write (.inr rfl) rfl h, Bool.and_eq_false_iff.mpr (.inr hv), rfl⟩
  · exact ⟨_, step_write (.inr rfl) rfl h, Bool.and_eq_true_iff.mpr ⟨hd, hv⟩⟩
  · exact ⟨_, step_of_reset h, rfl⟩

end Sys2Proof.Machine

/-! A command in flight completes under admitted inputs (60_exceptions.md R272; assumption log 16). -/

namespace Sys2Proof.Machine

variable {s t : State}

/-- A host access changes no input still to come. -/
theorem hostAccessAt_inbox (l : Loc) (k : AccessKind) (s : State) : (hostAccessAt l k s).inbox = s.inbox := by
  cases k with
  | read => rfl
  | write v =>
    obtain h | h := hostWrite_cases l v s <;> rw [hostAccessAt, h]
    · rfl
    · cases l <;> rfl

/-- An admitted access answers a next state and is taken from the inbox (R81). -/
theorem step_of_admitted_access {a : Access} {rest : List Event} (hi : s.inbox = .access a :: rest)
    (ha : (Event.access a).Admitted s.params) : ∃ t, step s = .next t ∧ t.inbox = rest := by
  obtain ⟨hin, ht⟩ := ha
  obtain ⟨l, hl⟩ := Option.isSome_iff_exists.mp ht
  refine ⟨hostAccessAt l a.kind { s with inbox := rest }, ?_, hostAccessAt_inbox _ _ _⟩
  rw [step, hi]
  simp [hostAccess, hin, hl]

/-- While a command is in flight, a step on admitted inputs ends it or takes one input. -/
theorem step_ends_or_consumes (hb : s.status.busy = true) (ha : ∀ e ∈ s.inbox, e.Admitted s.params) :
    ∃ t, step s = .next t ∧ (t.status.busy = false ∨ ∃ e, s.inbox = e :: t.inbox) := by
  match hi : s.inbox with
  | [] =>
    obtain ⟨t, h, hbusy, -⟩ := everyTurnCompletes s [] hb (.inl hi)
    exact ⟨t, h, .inl hbusy⟩
  | .engine :: rest =>
    obtain ⟨t, h, hbusy, -⟩ := everyTurnCompletes s rest hb (.inr hi)
    exact ⟨t, h, .inl hbusy⟩
  | .access a :: rest =>
    obtain ⟨t, h, rfl⟩ := step_of_admitted_access hi (ha _ (hi ▸ List.mem_cons_self))
    exact ⟨t, h, .inr ⟨_, rfl⟩⟩
  | .reset :: rest => exact ⟨_, step_of_reset hi, .inl rfl⟩

theorem run_succ_of_step (h : step s = .next t) (n : Nat) :
    Host.Core.run Sys2Proof.core (n + 1) s = Host.Core.run Sys2Proof.core n t := by
  have hc : Sys2Proof.core.step s = .next t := h
  simp only [Host.Core.run, hc]

/-- A unit with fewer than `n` inputs pending, all admitted, is idle within `n` steps. -/
theorem run_reaches_idle {n : Nat} (hn : s.inbox.length < n) (ha : ∀ e ∈ s.inbox, e.Admitted s.params) :
    ∃ k t, k ≤ n ∧ Host.Core.run Sys2Proof.core k s = .next t ∧ t.status.busy = false := by
  induction n generalizing s with
  | zero => exact absurd hn (Nat.not_lt_zero _)
  | succ n ih =>
    cases hb : s.status.busy with
    | false => exact ⟨0, s, Nat.zero_le _, rfl, hb⟩
    | true =>
      obtain ⟨t, h, hidle | ⟨e, he⟩⟩ := step_ends_or_consumes hb ha
      · exact ⟨1, t, Nat.le_add_left _ _, run_succ_of_step h 0, hidle⟩
      · rw [he] at hn ha
        rw [← step_params h] at ha
        obtain ⟨k, u, hk, hrun, hidle⟩ :=
          ih (Nat.lt_of_succ_lt_succ hn) fun e' hm => ha e' (List.mem_cons_of_mem e hm)
        exact ⟨k + 1, u, Nat.succ_le_succ hk, (run_succ_of_step h k).trans hrun, hidle⟩

/-- Settles O54: each step ends the command or takes one input, and with no input left the engine's turn ends it. -/
theorem busyEnds : Obligations.BusyEnds :=
  fun s _ ha => run_reaches_idle (Nat.lt_succ_self s.inbox.length) ha

end Sys2Proof.Machine

/-! The first failing check, in the order of R274 (60_exceptions.md). -/

namespace Sys2Proof.Machine

variable {s : State} {i : Instr}

/-- A command whose next check fails. -/
theorem raises_of_check {ok : Bool} {e : ErrCode} {k : Reply} (h : exec i s = (check ok e s k).finish)
    (hok : ok = false) : Raises i s e :=
  raises_of_exec_eq (by rw [h, hok, check_false])

/-- A command that passes the gate and whose operands are canonical goes on past step 4 of R274. -/
theorem exec_of_canon {ok : Bool} {k : Reply} (g : PassesGate i s)
    (h : exec i s = (needLegal i s (needCfgv s (needCanon ok s k))).finish) (hc : ok = true) :
    exec i s = k.finish := by
  rw [exec_of_passesGate g h, needCanon_of hc]

/-- Every meaning begins with step 1 of R274. -/
theorem exec_eq_needLegal (i : Instr) (s : State) : ∃ k, exec i s = (needLegal i s k).finish := by
  cases i <;> exact ⟨_, rfl⟩

theorem raises_illegalCommand (w : i.wf s.params = false) : Raises i s .illegalCommand := by
  obtain ⟨k, h⟩ := exec_eq_needLegal i s
  exact raises_of_check h w

/-- A command that needs a valid configuration goes on with step 2 of R274. -/
theorem exec_eq_needCfgv (hi : needsConfig i) (s : State) :
    ∃ k, exec i s = (needLegal i s (needCfgv s k)).finish := by
  obtain ⟨hnop, hcfgchk, hzeroize⟩ := hi
  cases i with
  | nop | cfgchk | zeroize => contradiction
  | _ => exact ⟨_, rfl⟩

/-- A command with field or point operands goes on with step 4 of R274, on just these operands. -/
theorem raises_nonCanonicalOperand (g : PassesGate i s) (hc : ¬operandsCanonical i s) :
    Raises i s .nonCanonicalOperand := by
  cases i with
  | nop | cfgchk | zeroize | fred | bchk | bmul => exact absurd ⟨nofun, nofun⟩ hc
  | fadd | fmul | fclmul | padd | fsqr | finv | solvey | pdec | pchk | pdbl | pcmp | smul =>
    exact raises_of_not_canon rfl g (by simpa [operandsCanonical, fieldOperands, pointOperands] using hc)

/-- Settles O9: each command's checks stand in the order of R274, and the first that fails raises. -/
theorem firstFailingCheckIsReported : Obligations.FirstFailingCheckIsReported := by
  intro i s
  refine ⟨raises_illegalCommand, fun w hi v => ?_, ?_, fun w v => raises_nonCanonicalOperand ⟨w, v⟩,
    ?_, ?_, ?_, ?_, ?_⟩
  · obtain ⟨k, h⟩ := exec_eq_needCfgv hi s
    exact (gateErrors_of_exec h).2 w v
  · rintro d a rfl w v vb
    exact raises_of_check (exec_of_passesGate ⟨w, v⟩ rfl) vb
  · rintro d a rfl w v vb hk
    have hexec := (exec_of_passesGate (i := .bmul d a) ⟨w, v⟩ rfl).trans (congrArg _ (needBrkv_of vb _))
    exact raises_of_check hexec (decide_eq_false hk.not_gt)
  · rintro d a b rfl w v ⟨-, hp⟩
    have hexec := exec_of_canon (i := .smul d a b) ⟨w, v⟩ rfl (hp b List.mem_cons_self)
    refine ⟨fun hk => raises_of_check hexec (decide_eq_false hk.not_gt), fun hk ho => ?_⟩
    rw [decide_eq_true hk, check_true] at hexec
    exact raises_of_check hexec ho
  · rintro d a rfl w v ⟨hf, -⟩ h0
    exact raises_of_check (exec_of_canon ⟨w, v⟩ rfl (hf a List.mem_cons_self)) (decide_eq_false (not_not.mpr h0))
  · rintro d a sel rfl w v ⟨hf, -⟩ hnone
    refine raises_of_exec_eq ?_
    rw [exec_of_canon ⟨w, v⟩ rfl (hf a List.mem_cons_self), hnone]
  · rintro d a sel rfl w v ⟨hf, -⟩ hnone
    refine raises_of_exec_eq ?_
    rw [exec_of_canon ⟨w, v⟩ rfl (hf a List.mem_cons_self), hnone]

end Sys2Proof.Machine

/-! The decoder and the encoder are inverse to each other on well-formed commands (30_encoding.md R110 to R116). -/

namespace Sys2Proof

variable {w m : Word} {i : Instr}

/-- The opcode and the operands of a command are read back from its word (R110, R113). -/
theorem decodeOpcode_encode (i : Instr) : decodeOpcode (encode i) = some i := by
  rw [decodeOpcode, fieldOPC_encode]
  cases i <;> simp [encode, Instr.opcode]

/-- The word of a command has zeros where its format requires them (R111). -/
theorem encode_and_zeroMask (i : Instr) : encode i &&& i.format.zeroMask = 0#32 := by
  cases i with
  | nop => exact Laws.ZeroBits.nop
  | cfgchk => exact Laws.ZeroBits.cfgchk
  | zeroize => exact Laws.ZeroBits.zeroize
  | bchk => exact Laws.ZeroBits.bchk
  | fadd | fmul | padd | smul => exact Laws.ZeroBits.r3 ..
  | fsqr | finv | pdbl | pcmp | bmul => exact Laws.ZeroBits.r2 ..
  | solvey | pdec => exact Laws.ZeroBits.r2s ..
  | fred => exact Laws.ZeroBits.rd1 ..
  | pchk => exact Laws.ZeroBits.ra1 ..
  | fclmul => exact Laws.ZeroBits.rab ..

theorem decode_encode {p : Params} (hwf : i.wf p = true) : decode p (encode i) = .ok i :=
  decode_eq_ok_iff.mpr ⟨decodeOpcode_encode i, encode_and_zeroMask i, hwf⟩

/-- Settles O2: the word of a command has its opcode, its operands and the zeros of its format. -/
theorem decodeEncodeRoundTrip : Obligations.DecodeEncodeRoundTrip :=
  fun _ _ hwf => decode_encode hwf

/-- A bit that a mask covers is zero in a word that has only zeros under the mask. -/
theorem getLsbD_eq_false_of_and {k : Nat} (hz : w &&& m = 0#32) (hm : m.getLsbD k = true) : w.getLsbD k = false := by
  simpa [hm] using congrArg (BitVec.getLsbD · k) hz

/-- A field that a mask covers is zero in a word that has only zeros under the mask. -/
theorem extractLsb'_eq_zero_of_and {k n : Nat} (hz : w &&& m = 0#32) (hm : m.extractLsb' k n = BitVec.allOnes n) :
    w.extractLsb' k n = 0#n := by
  simpa [BitVec.extractLsb'_and, hm] using congrArg (BitVec.extractLsb' k n) hz

theorem fieldRD_eq_zero (hz : w &&& m = 0#32) (hm : fieldRD m = BitVec.allOnes 4) : fieldRD w = 0 :=
  extractLsb'_eq_zero_of_and hz hm

theorem fieldRA_eq_zero (hz : w &&& m = 0#32) (hm : fieldRA m = BitVec.allOnes 4) : fieldRA w = 0 :=
  extractLsb'_eq_zero_of_and hz hm

theorem fieldRB_eq_zero (hz : w &&& m = 0#32) (hm : fieldRB m = BitVec.allOnes 4) : fieldRB w = 0 :=
  extractLsb'_eq_zero_of_and hz hm

theorem fieldS_eq_false (hz : w &&& m = 0#32) (hm : fieldS m = true) : fieldS w = false :=
  getLsbD_eq_false_of_and hz hm

/-- Every format requires RSV to be zero (R111). -/
theorem zeroMask_rsv (f : Format) : f.zeroMask.extractLsb' 1 11 = BitVec.allOnes 11 := by cases f <;> rfl

/-- S as the lowest slice of the word (R110). -/
theorem ofBool_fieldS (w : Word) : BitVec.ofBool (fieldS w) = w.extractLsb' 0 1 := by
  rw [fieldS, ← BitVec.setWidth_one, BitVec.setWidth_eq_extractLsb' (by decide)]

/-- The five fields of R110 and RSV are adjacent slices that cover the word. -/
theorem fields_append (w : Word) :
    fieldOPC w ++ fieldRD w ++ fieldRA w ++ fieldRB w ++ w.extractLsb' 1 11 ++ BitVec.ofBool (fieldS w) = w := by
  rw [ofBool_fieldS, fieldOPC, fieldRD, fieldRA, fieldRB,
    BitVec.extractLsb'_append_extractLsb'_eq_extractLsb' (rfl : 24 = 20 + 4),
    BitVec.extractLsb'_append_extractLsb'_eq_extractLsb' (rfl : 20 = 16 + 4),
    BitVec.extractLsb'_append_extractLsb'_eq_extractLsb' (rfl : 16 = 12 + 4),
    BitVec.extractLsb'_append_extractLsb'_eq_extractLsb' (rfl : 12 = 1 + 11),
    BitVec.extractLsb'_append_extractLsb'_eq_extractLsb' (rfl : 1 = 0 + 1)]
  exact BitVec.extractLsb'_eq_self

/-- A word with the zeros of some format is assembled from its own fields (R110, R111). -/
theorem assemble_fields {f : Format} (hz : w &&& f.zeroMask = 0#32) :
    assemble (fieldOPC w) (fieldRD w) (fieldRA w) (fieldRB w) (fieldS w) = w := by
  rw [assemble, ← extractLsb'_eq_zero_of_and hz (zeroMask_rsv f)]
  exact fields_append w

/-- The command of a word takes over the fields its format uses, and the format's zeros cover the others (R111). -/
theorem encode_of_decodeOpcode (hi : decodeOpcode w = some i) (hz : w &&& i.format.zeroMask = 0#32) :
    encode i = w := by
  have hopc := fieldOPC_of_decodeOpcode hi
  rw [← assemble_fields hz, hopc]
  rw [decodeOpcode, hopc] at hi
  cases i with
  | nop | cfgchk | zeroize | bchk =>
    rw [fieldRD_eq_zero hz rfl, fieldRA_eq_zero hz rfl, fieldRB_eq_zero hz rfl, fieldS_eq_false hz rfl]
    rfl
  | fadd | fmul | padd | smul =>
    cases hi
    change w &&& Format.R3.zeroMask = 0#32 at hz
    rw [fieldS_eq_false hz rfl]
    rfl
  | fsqr | finv | pdbl | pcmp | bmul =>
    cases hi
    change w &&& Format.R2.zeroMask = 0#32 at hz
    rw [fieldRB_eq_zero hz rfl, fieldS_eq_false hz rfl]
    rfl
  | solvey | pdec =>
    cases hi
    change w &&& Format.R2S.zeroMask = 0#32 at hz
    rw [fieldRB_eq_zero hz rfl]
    rfl
  | fred =>
    cases hi
    change w &&& Format.RD1.zeroMask = 0#32 at hz
    rw [fieldRA_eq_zero hz rfl, fieldRB_eq_zero hz rfl, fieldS_eq_false hz rfl]
    rfl
  | pchk =>
    cases hi
    change w &&& Format.RA1.zeroMask = 0#32 at hz
    rw [fieldRD_eq_zero hz rfl, fieldRB_eq_zero hz rfl, fieldS_eq_false hz rfl]
    rfl
  | fclmul =>
    cases hi
    change w &&& Format.RAB.zeroMask = 0#32 at hz
    rw [fieldRD_eq_zero hz rfl, fieldS_eq_false hz rfl]
    rfl

/-- Settles O3: the decoder's three conditions leave no bit of the word free. -/
theorem decodedWordIsItsEncoding : Obligations.DecodedWordIsItsEncoding := by
  intro p w i h
  obtain ⟨hi, hz, hwf⟩ := decode_eq_ok_iff.mp h
  exact ⟨hwf, encode_of_decodeOpcode hi hz⟩

/-- A table word that is the word of a command of the default build decodes to that command. -/
theorem decodeTableWord_of_encode {nbits n : Nat} (h : tableWord nbits n = encode i) (hwf : i.wf .default = true) :
    decodeTableWord nbits n = some i := by
  rw [decodeTableWord, h, decode_encode hwf]
  rfl

/-- Settles O1: each word of R119 is the encoding of its command, which the default build has. -/
theorem sampleWordsDecode : Obligations.SampleWordsDecode := by
  refine ⟨?_, ?_, ?_, ?_, ?_, ?_, ?_, ?_, ?_, ?_⟩ <;> exact decodeTableWord_of_encode rfl rfl

end Sys2Proof
